-- ==== Sys2Proof/Word.lean ====
section
/-! DEFINITION. The word types of the machine: `00_scope.md` R5, R7. Every value is unsigned; bit 0 is the least
significant bit. -/

namespace Sys2Proof

/-- A byte: the data bus, the registers and every memory cell (`00_scope.md` R5). -/
abbrev Byte := BitVec 8

/-- A 16-bit memory address, also the program counter (`00_scope.md` R5, `10_state.md` R14). -/
abbrev Addr := BitVec 16

/-- Four bits: the flag nibble, the microstep counter and the bus-select register (`00_scope.md` R5). -/
abbrev Nibble := BitVec 4

/-- A 16-bit control word (`30_encoding.md` R60). -/
abbrev ControlWord := BitVec 16

end Sys2Proof
end

