-- ==== Sys2Proof/Syntax.lean ====
section
/-! DEFINITION. The instruction set: one constructor of `Instr` for each row of `spec/opcode_table.json`
(`30_encoding.md` R71), in the table's order. -/

namespace Sys2Proof

/-- A general register, the 2-bit fields `rr`, `dd`, `ss` of `30_encoding.md` R70: 00 A, 01 B, 10 C, 11 D. -/
inductive Reg where
  | a | b | c | d
  deriving DecidableEq, Repr

/-- A register pair used as a 16-bit pointer, the field `p` of `30_encoding.md` R70: 0 AB, 1 CD. -/
inductive Pair where
  | ab | cd
  deriving DecidableEq, Repr

/-- An I/O port number, the field `qq` of `30_encoding.md` R70. -/
inductive Port where
  | p0 | p1 | p2 | p3
  deriving DecidableEq, Repr

/-- An instruction with its operands. Immediates are raw bytes; a 16-bit operand is given as its low byte and its high
byte, in that order (`30_encoding.md` R70, `20_memory.md` R43). -/
inductive Instr where
  /-- `NOP`, R130. -/
  | nop
  /-- `BRK`, debug trap that does not trap, R191. -/
  | brk
  /-- `SKP`, skip the next byte, R192. -/
  | skp
  /-- `LDT imm`, R133. -/
  | ldt (imm : Byte)
  /-- `PSHI imm`, R182. -/
  | pshi (imm : Byte)
  /-- `CALJ lo, hi, imm`, R186. -/
  | calj (lo hi imm : Byte)
  /-- `RETL`, R187. -/
  | retl
  /-- `RETH`, R188. -/
  | reth
  /-- `LDI r, imm`, R131. -/
  | ldi (r : Reg) (imm : Byte)
  /-- `LDP p, lo, hi`, R132. -/
  | ldp (p : Pair) (lo hi : Byte)
  /-- `MOV d, s`, R134. -/
  | mov (dst src : Reg)
  /-- `LD r, [p]`, R140. -/
  | ld (r : Reg) (p : Pair)
  /-- `LD r, [p]+`, R141. -/
  | ldpi (r : Reg) (p : Pair)
  /-- `ST [p], r`, R142. -/
  | st (p : Pair) (r : Reg)
  /-- `ST [p]+, r`, R143. -/
  | stpi (p : Pair) (r : Reg)
  /-- `LDA r, [abs]`, R144. -/
  | lda (r : Reg) (lo hi : Byte)
  /-- `STA [abs], r`, R145. -/
  | sta (lo hi : Byte) (r : Reg)
  /-- `INC r`, R150. -/
  | inc (r : Reg)
  /-- `DEC r`, R151. -/
  | dec (r : Reg)
  /-- `INCC r`, R152. -/
  | incc (r : Reg)
  /-- `DECC r`, R153. -/
  | decc (r : Reg)
  /-- `SHL r`, R154. -/
  | shl (r : Reg)
  /-- `SHR r`, R155. -/
  | shr (r : Reg)
  /-- `RCL r`, R156. -/
  | rcl (r : Reg)
  /-- `RCR r`, R157. -/
  | rcr (r : Reg)
  /-- `ANDI r, imm`, R165. -/
  | andi (r : Reg) (imm : Byte)
  /-- `ORI r, imm`, R166. -/
  | ori (r : Reg) (imm : Byte)
  /-- `AND d, s`, R167. -/
  | and (dst src : Reg)
  /-- `OR d, s`, R168. -/
  | or (dst src : Reg)
  /-- `ADD d, s`, R158. -/
  | add (dst src : Reg)
  /-- `ADDI r, imm`, R159. -/
  | addi (r : Reg) (imm : Byte)
  /-- `TST r`, R160. -/
  | tst (r : Reg)
  /-- `LDF r`, R176. -/
  | ldf (r : Reg)
  /-- `STF r`, R177. -/
  | stf (r : Reg)
  /-- `PUSH r`, R180. -/
  | push (r : Reg)
  /-- `POP r`, R181. -/
  | pop (r : Reg)
  /-- `JMP lo, hi`, R189, R190. -/
  | jmp (lo hi : Byte)
  /-- `JZ lo, hi`, R189, R190. -/
  | jz (lo hi : Byte)
  /-- `JNZ lo, hi`, R189, R190. -/
  | jnz (lo hi : Byte)
  /-- `JC lo, hi`, R189, R190. -/
  | jc (lo hi : Byte)
  /-- `JNC lo, hi`, R189, R190. -/
  | jnc (lo hi : Byte)
  /-- `JS lo, hi`, R189, R190. -/
  | js (lo hi : Byte)
  /-- `JBE lo, hi`, R189, R190. -/
  | jbe (lo hi : Byte)
  /-- `JAE lo, hi`, R189, R190. -/
  | jae (lo hi : Byte)
  /-- `OUT q, r`, R201. -/
  | out (q : Port) (r : Reg)
  /-- `IN r, q`, R202 (`in` is a word of Lean). -/
  | inp (r : Reg) (q : Port)
  /-- `OUTI q, imm`, R203. -/
  | outi (q : Port) (imm : Byte)
  /-- `BMW r`, R173. -/
  | bmw (r : Reg)
  /-- `BMX r, xsel, mask`, R172. -/
  | bmx (r : Reg) (xsel mask : Byte)
  /-- An unmapped opcode 0x0E or 0x0F, R72; `op` is the whole opcode byte, which `IR` takes. -/
  | unmapped0E (op : Byte)
  /-- An unmapped opcode 0xEC to 0xEF, R72; `op` is the whole opcode byte, which `IR` takes. -/
  | unmappedEC (op : Byte)
  /-- An unmapped opcode 0xF0 to 0xFF, R72; `op` is the whole opcode byte, which `IR` takes. -/
  | unmappedF0 (op : Byte)
  deriving DecidableEq, Repr

/-- The length of an instruction in bytes: the "bytes" column of `30_encoding.md` R71. -/
def Instr.bytes : Instr → Nat
  | .nop | .brk | .skp | .retl | .reth => 1
  | .ldt _ | .pshi _ => 2
  | .calj _ _ _ => 4
  | .ldi _ _ => 2
  | .ldp _ _ _ => 3
  | .mov _ _ => 1
  | .ld _ _ | .ldpi _ _ | .st _ _ | .stpi _ _ => 1
  | .lda _ _ _ | .sta _ _ _ => 3
  | .inc _ | .dec _ | .incc _ | .decc _ => 1
  | .shl _ | .shr _ | .rcl _ | .rcr _ => 1
  | .andi _ _ | .ori _ _ => 2
  | .and _ _ | .or _ _ | .add _ _ => 1
  | .addi _ _ => 2
  | .tst _ | .ldf _ | .stf _ | .push _ | .pop _ => 1
  | .jmp _ _ | .jz _ _ | .jnz _ _ | .jc _ _ | .jnc _ _ | .js _ _ | .jbe _ _ | .jae _ _ => 3
  | .out _ _ | .inp _ _ => 1
  | .outi _ _ => 2
  | .bmw _ => 1
  | .bmx _ _ _ => 3
  | .unmapped0E _ | .unmappedEC _ | .unmappedF0 _ => 1

/-- The number of clock cycles of an instruction's slot, fetch included: the "steps" column of `30_encoding.md` R71. -/
def Instr.steps : Instr → Nat
  | .nop => 16
  | .brk => 2
  | .skp => 3
  | .ldt _ => 3
  | .pshi _ => 13
  | .calj _ _ _ => 15
  | .retl => 15
  | .reth => 11
  | .ldi _ _ => 4
  | .ldp _ _ _ => 6
  | .mov _ _ => 5
  | .ld _ _ => 11
  | .ldpi _ _ => 15
  | .st _ _ => 11
  | .stpi _ _ => 15
  | .lda _ _ _ | .sta _ _ _ => 13
  | .inc _ | .dec _ | .incc _ | .decc _ => 13
  | .shl _ => 12
  | .shr _ => 13
  | .rcl _ | .rcr _ => 16
  | .andi _ _ | .ori _ _ => 12
  | .and _ _ | .or _ _ | .add _ _ => 12
  | .addi _ _ => 12
  | .tst _ => 10
  | .ldf _ => 12
  | .stf _ => 4
  | .push _ => 14
  | .pop _ => 15
  | .jmp _ _ | .jz _ _ | .jnz _ _ | .jc _ _ | .jnc _ _ | .js _ _ | .jbe _ _ | .jae _ _ => 5
  | .out _ _ => 6
  | .inp _ _ => 5
  | .outi _ _ => 5
  | .bmw _ => 14
  | .bmx _ _ _ => 12
  | .unmapped0E _ | .unmappedEC _ | .unmappedF0 _ => 16

end Sys2Proof
end

