-- ==== Sys2Proof/WellFormed.lean ====
section
/-! DEFINITION. Which terms of `Instr` are instructions of the machine. Registers, pairs and ports are types of
exactly their field's values, so only an unmapped opcode byte can be ill-formed (`30_encoding.md` R70, R72). -/

namespace Sys2Proof

/-- A term of `Instr` that some bytes encode: an unmapped opcode byte stands in the range of its row of
`30_encoding.md` R72; every other operand value is legal (R72: "every field value of every row of rule R71 is
legal"). -/
def Instr.wellFormed : Instr → Bool
  | .unmapped0E op => op.extractLsb' 1 7 == 0b0000111#7
  | .unmappedEC op => op.extractLsb' 2 6 == 0b111011#6
  | .unmappedF0 op => op.extractLsb' 4 4 == 0b1111#4
  | .nop | .brk | .skp | .retl | .reth => true
  | .ldt _ | .pshi _ | .calj _ _ _ => true
  | .ldi _ _ | .ldp _ _ _ | .mov _ _ => true
  | .ld _ _ | .ldpi _ _ | .st _ _ | .stpi _ _ | .lda _ _ _ | .sta _ _ _ => true
  | .inc _ | .dec _ | .incc _ | .decc _ | .shl _ | .shr _ | .rcl _ | .rcr _ => true
  | .andi _ _ | .ori _ _ | .and _ _ | .or _ _ | .add _ _ | .addi _ _ | .tst _ => true
  | .ldf _ | .stf _ | .push _ | .pop _ => true
  | .jmp _ _ | .jz _ _ | .jnz _ _ | .jc _ _ | .jnc _ _ | .js _ _ | .jbe _ _ | .jae _ _ => true
  | .out _ _ | .inp _ _ | .outi _ _ | .bmw _ | .bmx _ _ _ => true

end Sys2Proof
end

