-- ==== Sys2Proof/Decode.lean ====
section
/-! DEFINITION. Decoding and encoding of instructions: `30_encoding.md` R69 to R73. Decoding looks at the opcode byte
alone and is total; it refuses, by name, only a list of bytes that is too short. -/

namespace Sys2Proof

/-! ## Fields of the opcode byte (`30_encoding.md` R70) -/

/-- The register a 2-bit field value names. -/
def regOfField (n : BitVec 2) : Reg :=
  match n.toNat with
  | 0 => .a
  | 1 => .b
  | 2 => .c
  | _ => .d

/-- The 2-bit field value of a register. -/
def regField : Reg → BitVec 2
  | .a => 0b00#2
  | .b => 0b01#2
  | .c => 0b10#2
  | .d => 0b11#2

/-- The pair a 1-bit field value names. -/
def pairOfField (n : BitVec 1) : Pair :=
  match n.toNat with
  | 0 => .ab
  | _ => .cd

/-- The 1-bit field value of a pair. -/
def pairField : Pair → BitVec 1
  | .ab => 0b0#1
  | .cd => 0b1#1

/-- The port a 2-bit field value names. -/
def portOfField (n : BitVec 2) : Port :=
  match n.toNat with
  | 0 => .p0
  | 1 => .p1
  | 2 => .p2
  | _ => .p3

/-- The 2-bit field value of a port. -/
def portField : Port → BitVec 2
  | .p0 => 0b00#2
  | .p1 => 0b01#2
  | .p2 => 0b10#2
  | .p3 => 0b11#2

/-- Field `rr` or `ss`, opcode bits 1 to 0. -/
def fieldRR (op : Byte) : Reg := regOfField (op.extractLsb' 0 2)

/-- Field `dd`, opcode bits 3 to 2. -/
def fieldDD (op : Byte) : Reg := regOfField (op.extractLsb' 2 2)

/-- Field `p` of `LDP`, opcode bit 0. -/
def fieldP0 (op : Byte) : Pair := pairOfField (op.extractLsb' 0 1)

/-- Field `p` of the indirect loads and stores, opcode bit 2. -/
def fieldP2 (op : Byte) : Pair := pairOfField (op.extractLsb' 2 1)

/-- Field `qq` of `IN` and `OUT`, opcode bits 3 to 2. -/
def fieldQ2 (op : Byte) : Port := portOfField (op.extractLsb' 2 2)

/-- Field `qq` of `OUTI`, opcode bits 1 to 0. -/
def fieldQ0 (op : Byte) : Port := portOfField (op.extractLsb' 0 2)

/-! ## The opcode map (`30_encoding.md` R71, R72) -/

/-- One row of the opcode map: the opcode bytes with `op &&& mask = pattern` are the row's, and `build` gives the
instruction from the opcode byte and the three bytes after it. -/
structure OpcodeRow where
  mask : Byte
  pattern : Byte
  build : Byte → Byte → Byte → Byte → Instr

/-- Does the opcode byte belong to the row? -/
def OpcodeRow.matches (row : OpcodeRow) (op : Byte) : Bool := op &&& row.mask == row.pattern

/-- Rows 0x00 to 0x1F of R71, and 0x0E, 0x0F of R72. -/
def opcodeRowsLow : List OpcodeRow := [
  ⟨0xFF, 0x00, fun _ _ _ _ => .nop⟩,
  ⟨0xFF, 0x01, fun _ _ _ _ => .brk⟩,
  ⟨0xFF, 0x02, fun _ _ _ _ => .skp⟩,
  ⟨0xFF, 0x03, fun _ x _ _ => .ldt x⟩,
  ⟨0xFF, 0x04, fun _ x _ _ => .pshi x⟩,
  ⟨0xFF, 0x05, fun _ x y z => .calj x y z⟩,
  ⟨0xFF, 0x06, fun _ _ _ _ => .retl⟩,
  ⟨0xFF, 0x07, fun _ _ _ _ => .reth⟩,
  ⟨0xFC, 0x08, fun op x _ _ => .ldi (fieldRR op) x⟩,
  ⟨0xFE, 0x0C, fun op x y _ => .ldp (fieldP0 op) x y⟩,
  ⟨0xFE, 0x0E, fun op _ _ _ => .unmapped0E op⟩,
  ⟨0xF0, 0x10, fun op _ _ _ => .mov (fieldDD op) (fieldRR op)⟩]

/-- Rows 0x20 to 0x5F of R71. -/
def opcodeRowsMemoryArith : List OpcodeRow := [
  ⟨0xF8, 0x20, fun op _ _ _ => .ld (fieldRR op) (fieldP2 op)⟩,
  ⟨0xF8, 0x28, fun op _ _ _ => .ldpi (fieldRR op) (fieldP2 op)⟩,
  ⟨0xF8, 0x30, fun op _ _ _ => .st (fieldP2 op) (fieldRR op)⟩,
  ⟨0xF8, 0x38, fun op _ _ _ => .stpi (fieldP2 op) (fieldRR op)⟩,
  ⟨0xFC, 0x40, fun op x y _ => .lda (fieldRR op) x y⟩,
  ⟨0xFC, 0x44, fun op x y _ => .sta x y (fieldRR op)⟩,
  ⟨0xFC, 0x48, fun op _ _ _ => .inc (fieldRR op)⟩,
  ⟨0xFC, 0x4C, fun op _ _ _ => .dec (fieldRR op)⟩,
  ⟨0xFC, 0x50, fun op _ _ _ => .incc (fieldRR op)⟩,
  ⟨0xFC, 0x54, fun op _ _ _ => .decc (fieldRR op)⟩,
  ⟨0xFC, 0x58, fun op _ _ _ => .shl (fieldRR op)⟩,
  ⟨0xFC, 0x5C, fun op _ _ _ => .shr (fieldRR op)⟩]

/-- Rows 0x60 to 0xAF of R71. -/
def opcodeRowsLogicFlags : List OpcodeRow := [
  ⟨0xFC, 0x60, fun op _ _ _ => .rcl (fieldRR op)⟩,
  ⟨0xFC, 0x64, fun op _ _ _ => .rcr (fieldRR op)⟩,
  ⟨0xFC, 0x68, fun op x _ _ => .andi (fieldRR op) x⟩,
  ⟨0xFC, 0x6C, fun op x _ _ => .ori (fieldRR op) x⟩,
  ⟨0xF0, 0x70, fun op _ _ _ => .and (fieldDD op) (fieldRR op)⟩,
  ⟨0xF0, 0x80, fun op _ _ _ => .or (fieldDD op) (fieldRR op)⟩,
  ⟨0xF0, 0x90, fun op _ _ _ => .add (fieldDD op) (fieldRR op)⟩,
  ⟨0xFC, 0xA0, fun op x _ _ => .addi (fieldRR op) x⟩,
  ⟨0xFC, 0xA4, fun op _ _ _ => .tst (fieldRR op)⟩,
  ⟨0xFC, 0xA8, fun op _ _ _ => .ldf (fieldRR op)⟩,
  ⟨0xFC, 0xAC, fun op _ _ _ => .stf (fieldRR op)⟩]

/-- Rows 0xB0 to 0xEB of R71, and 0xEC to 0xFF of R72. -/
def opcodeRowsHigh : List OpcodeRow := [
  ⟨0xFC, 0xB0, fun op _ _ _ => .push (fieldRR op)⟩,
  ⟨0xFC, 0xB4, fun op _ _ _ => .pop (fieldRR op)⟩,
  ⟨0xFF, 0xB8, fun _ x y _ => .jmp x y⟩,
  ⟨0xFF, 0xB9, fun _ x y _ => .jz x y⟩,
  ⟨0xFF, 0xBA, fun _ x y _ => .jnz x y⟩,
  ⟨0xFF, 0xBB, fun _ x y _ => .jc x y⟩,
  ⟨0xFF, 0xBC, fun _ x y _ => .jnc x y⟩,
  ⟨0xFF, 0xBD, fun _ x y _ => .js x y⟩,
  ⟨0xFF, 0xBE, fun _ x y _ => .jbe x y⟩,
  ⟨0xFF, 0xBF, fun _ x y _ => .jae x y⟩,
  ⟨0xF0, 0xC0, fun op _ _ _ => .out (fieldQ2 op) (fieldRR op)⟩,
  ⟨0xF0, 0xD0, fun op _ _ _ => .inp (fieldRR op) (fieldQ2 op)⟩,
  ⟨0xFC, 0xE0, fun op x _ _ => .outi (fieldQ0 op) x⟩,
  ⟨0xFC, 0xE4, fun op _ _ _ => .bmw (fieldRR op)⟩,
  ⟨0xFC, 0xE8, fun op x y _ => .bmx (fieldRR op) x y⟩,
  ⟨0xFC, 0xEC, fun op _ _ _ => .unmappedEC op⟩,
  ⟨0xF0, 0xF0, fun op _ _ _ => .unmappedF0 op⟩]

/-- The whole opcode map: 52 rows, as `spec/opcode_table.json` has them. -/
def opcodeRows : List OpcodeRow :=
  opcodeRowsLow ++ opcodeRowsMemoryArith ++ opcodeRowsLogicFlags ++ opcodeRowsHigh

/-- The instruction the first matching row of a list gives. -/
def decodeIn (op x y z : Byte) : List OpcodeRow → Option Instr
  | [] => none
  | row :: rows => if row.matches op then some (row.build op x y z) else decodeIn op x y z rows

/-- The instruction that an opcode byte and the three bytes after it spell: total, since the rows cover every opcode
byte (R73). The row 0xF0 stands in for the end of the list, which no opcode byte reaches. -/
def decodeBytes (op x y z : Byte) : Instr := (decodeIn op x y z opcodeRows).getD (.unmappedF0 op)

/-- Why a list of bytes spells no instruction. -/
inductive DecodeError where
  /-- There is no opcode byte. -/
  | noOpcode
  /-- The opcode byte calls for more operand bytes than there are (`30_encoding.md` R69). -/
  | truncated (op : Byte)
  deriving DecidableEq, Repr

/-- The instruction at the head of a list of bytes, in increasing address order, and the bytes after it
(`30_encoding.md` R69, R73). -/
def decode : List Byte → Except DecodeError (Instr × List Byte)
  | [] => .error .noOpcode
  | op :: rest =>
    let i := decodeBytes op (rest.getD 0 0) (rest.getD 1 0) (rest.getD 2 0)
    if rest.length + 1 < i.bytes then .error (.truncated op) else .ok (i, rest.drop (i.bytes - 1))

/-! ## Encoding -/

/-- The opcode byte of an instruction (`30_encoding.md` R71). -/
def Instr.opcode : Instr → Byte
  | .nop => 0x00
  | .brk => 0x01
  | .skp => 0x02
  | .ldt _ => 0x03
  | .pshi _ => 0x04
  | .calj _ _ _ => 0x05
  | .retl => 0x06
  | .reth => 0x07
  | .ldi r _ => 0b000010#6 ++ regField r
  | .ldp p _ _ => 0b0000110#7 ++ pairField p
  | .mov dst src => 0b0001#4 ++ regField dst ++ regField src
  | .ld r p => 0b00100#5 ++ pairField p ++ regField r
  | .ldpi r p => 0b00101#5 ++ pairField p ++ regField r
  | .st p r => 0b00110#5 ++ pairField p ++ regField r
  | .stpi p r => 0b00111#5 ++ pairField p ++ regField r
  | .lda r _ _ => 0b010000#6 ++ regField r
  | .sta _ _ r => 0b010001#6 ++ regField r
  | .inc r => 0b010010#6 ++ regField r
  | .dec r => 0b010011#6 ++ regField r
  | .incc r => 0b010100#6 ++ regField r
  | .decc r => 0b010101#6 ++ regField r
  | .shl r => 0b010110#6 ++ regField r
  | .shr r => 0b010111#6 ++ regField r
  | .rcl r => 0b011000#6 ++ regField r
  | .rcr r => 0b011001#6 ++ regField r
  | .andi r _ => 0b011010#6 ++ regField r
  | .ori r _ => 0b011011#6 ++ regField r
  | .and dst src => 0b0111#4 ++ regField dst ++ regField src
  | .or dst src => 0b1000#4 ++ regField dst ++ regField src
  | .add dst src => 0b1001#4 ++ regField dst ++ regField src
  | .addi r _ => 0b101000#6 ++ regField r
  | .tst r => 0b101001#6 ++ regField r
  | .ldf r => 0b101010#6 ++ regField r
  | .stf r => 0b101011#6 ++ regField r
  | .push r => 0b101100#6 ++ regField r
  | .pop r => 0b101101#6 ++ regField r
  | .jmp _ _ => 0b10111000#8
  | .jz _ _ => 0b10111001#8
  | .jnz _ _ => 0b10111010#8
  | .jc _ _ => 0b10111011#8
  | .jnc _ _ => 0b10111100#8
  | .js _ _ => 0b10111101#8
  | .jbe _ _ => 0b10111110#8
  | .jae _ _ => 0b10111111#8
  | .out q r => 0b1100#4 ++ portField q ++ regField r
  | .inp r q => 0b1101#4 ++ portField q ++ regField r
  | .outi q _ => 0b111000#6 ++ portField q
  | .bmw r => 0b111001#6 ++ regField r
  | .bmx r _ _ => 0b111010#6 ++ regField r
  | .unmapped0E op => op
  | .unmappedEC op => op
  | .unmappedF0 op => op

/-- The operand bytes of an instruction, in increasing address order (`30_encoding.md` R69: formats `OP`, `OP_I8`,
`OP_I16`, `OP_X_M`, `OP_I16_I8`). -/
def Instr.operandBytes : Instr → List Byte
  | .ldt imm => [imm]
  | .pshi imm => [imm]
  | .calj lo hi imm => [lo, hi, imm]
  | .ldi _ imm => [imm]
  | .ldp _ lo hi => [lo, hi]
  | .lda _ lo hi => [lo, hi]
  | .sta lo hi _ => [lo, hi]
  | .andi _ imm => [imm]
  | .ori _ imm => [imm]
  | .addi _ imm => [imm]
  | .jmp lo hi | .jz lo hi | .jnz lo hi | .jc lo hi | .jnc lo hi | .js lo hi | .jbe lo hi | .jae lo hi => [lo, hi]
  | .outi _ imm => [imm]
  | .bmx _ xsel mask => [xsel, mask]
  | .nop | .brk | .skp | .retl | .reth | .mov _ _ | .ld _ _ | .ldpi _ _ | .st _ _ | .stpi _ _ => []
  | .inc _ | .dec _ | .incc _ | .decc _ | .shl _ | .shr _ | .rcl _ | .rcr _ => []
  | .and _ _ | .or _ _ | .add _ _ | .tst _ | .ldf _ | .stf _ | .push _ | .pop _ => []
  | .out _ _ | .inp _ _ | .bmw _ | .unmapped0E _ | .unmappedEC _ | .unmappedF0 _ => []

/-- The bytes of an instruction, in increasing address order. -/
def encode (i : Instr) : List Byte := i.opcode :: i.operandBytes

/-! ## The host's reading of the opcode table -/

/-- Byte `k` of an instruction numbered as `spec/opcode_table.json` numbers it: byte 0 is bits 7 to 0. -/
def tableByte (w k : Nat) : Byte := BitVec.ofNat 8 (w >>> (8 * k))

/-- The four bytes from which a table word of `nbits` bits is read, every bit above `nbits` being 0. -/
def tableBytes (nbits w : Nat) : List Byte :=
  let v := w % 2 ^ nbits
  [tableByte v 0, tableByte v 1, tableByte v 2, tableByte v 3]

/-- The instruction the decoder reads from a table word. -/
def decodeTableWord (nbits w : Nat) : Option Instr :=
  match decode (tableBytes nbits w) with
  | .ok (i, _) => some i
  | .error _ => none

end Sys2Proof
end

