-- ==== Sys2Proof/Config.lean ====
section
/-! DEFINITION. What is fixed for one machine and left open by the spec: the boot image (`00_scope.md` R6). The other
open parameter of R6, the host's action sequence, is an argument of `runCyclesWithHost` (Machine/Cycle.lean) and of
`runProgram` (Machine/Run.lean). -/

namespace Sys2Proof

/-- A boot image: at most 512 bytes (`40_alu_operations.md` R99); a longer list is no boot image
(`93_implementation_defined.md` U14). -/
abbrev BootImage := { bytes : List Byte // bytes.length ≤ 512 }

/-- The bytes externally supplied for embedding in the ALU table. OPEN in the spec (`92_eei_decisions.md` D11), so it
has no body: nothing can be proved of its value. Log 2. -/
opaque Config.bootBytes : List Byte

/-- `BOOT_IMAGE` of this machine: at most 512 of the supplied bytes (`00_scope.md` R6). Log 2. -/
def Config.bootImage : BootImage := ⟨Config.bootBytes.take 512, List.length_take_le 512 Config.bootBytes⟩

end Sys2Proof
end

