-- ==== Sys2Proof/Machine/State.lean ====
section
/-! DEFINITION. The state record of the machine (`10_state.md` R10), its reset values (`70_reset_and_hazards.md` R230),
and the reasons a step can stop. -/

namespace Sys2Proof.Machine

/-- The fatal conditions of `60_exceptions.md` R210. The faulting cycle changes nothing and the run ends (R215); the
fault carries its kind only (log 5). -/
inductive Fault where
  /-- A control word with zero, or more than one, output-enable (R112, R212). Raised by `cycleWord`; no word of `ucode`
  has this form. Safe: the source calls it a state impossible on real hardware. -/
  | busContention
  /-- A port access with `BSEL` not one of 1, 2, 4, 8, or selecting port 0, 1 or 2 (R196, R197, R211). Raised by
  `cycleWord` and by `IN`, `OUT`, `OUTI` with a port other than 3. Safe: those ports do not exist. -/
  | unsupportedPort
  /-- A control word with `LD_SEL` = 0 and bits 13 to 10 in 4 to 15 (R62, R213). Raised by `cycleWord`; no word of
  `ucode` has this form. Safe: the code means nothing. -/
  | reservedAux
  deriving DecidableEq, Repr

/-- What the model turns away. -/
inductive Refusal where
  /-- An instruction that has no meaning in the model. No arm of `exec` answers it. Safe. -/
  | notModelled (mnemonic : String)
  /-- The host tried `host_fill` while a received byte was still pending (`47_io_uart.md` R205,
  `93_implementation_defined.md` U13). Raised by `hostFill` only, never by a step. Safe. -/
  | hostFillWhilePending
  deriving DecidableEq, Repr

/-- The eight slots of the register-file page (`10_state.md` R12). -/
inductive Slot where
  | pl | ph | a | b | c | d | sp | w
  deriving DecidableEq, Repr

/-- The 64 KB memory as the bytes that are not 0x00, addresses strictly rising; a byte that is not listed reads 0x00,
the reset contents of `70_reset_and_hazards.md` R230. -/
structure Memory where
  cells : List Host.Cell
  deriving DecidableEq, Repr

/-- The complete state of the machine (`10_state.md` R10). -/
structure State where
  /-- `IR`, the opcode register (R20). -/
  ir : Byte
  /-- `STEP`, the microstep counter (R21). -/
  ustep : Nibble
  /-- `FLAGS`: bit 0 C, bit 1 S, bit 2 Z, bit 3 I (R16). -/
  flags : Nibble
  /-- `BSEL`, the bus-select register: bits 2 to 0 `SEL`, bit 3 `ROUTE` (R19). -/
  bsel : Nibble
  /-- `T`, the temp register (R22). -/
  t : Byte
  /-- `AL`, the low byte of the address register (R14, R15). -/
  al : Byte
  /-- `AH`, the high byte of the address register (R14, R15). -/
  ah : Byte
  /-- `MEM`, with the eight logical registers at 0xFFF0 to 0xFFF7 (R11, R12). -/
  mem : Memory
  /-- `OUT`, the output latch of I/O port 3. -/
  out : Byte
  /-- `TXB`, the UART transmit shift byte. -/
  txb : Byte
  /-- `TXN`, the UART transmit bit count, 0 to 8. -/
  txn : Nibble
  /-- `TXRDY`, the transmit-ready latch. -/
  txrdy : Bool
  /-- `TXD`, the last completely transmitted byte. -/
  txd : Byte
  /-- `RXB`, the UART receive byte, filled by the host. -/
  rxb : Byte
  /-- `RXN`, the UART receive bit count, 0 to 8. -/
  rxn : Nibble
  /-- `RXIDLE`, the count of consecutive idle polls, saturating at 255. -/
  rxidle : Byte
  /-- `RXPEND`, the receive-pending latch. -/
  rxpend : Bool
  deriving DecidableEq, Repr

/-- The machine right after reset: every piece of state is zero (`70_reset_and_hazards.md` R230), so `FLAGS.I` = 0
selects the power-on regime. -/
def State.reset : State where
  ir := 0x00
  ustep := 0
  flags := 0b0000
  bsel := 0b0000
  t := 0x00
  al := 0x00
  ah := 0x00
  mem := ⟨[]⟩
  out := 0x00
  txb := 0x00
  txn := 0
  txrdy := false
  txd := 0x00
  rxb := 0x00
  rxn := 0
  rxidle := 0
  rxpend := false

/-- What a step of the machine answers. -/
abbrev Result := Host.Outcome State Fault Refusal

end Sys2Proof.Machine
end

