-- ==== Sys2Proof/Machine/Flags.lean ====
section
/-! DEFINITION. The flag nibble: its bits (`10_state.md` R16), every flag computation the ALU gives
(`40_alu_operations.md` R96, R97), and the jump conditions (`46_stack_and_control.md` R190). -/

namespace Sys2Proof.Machine

/-! ## Bits of the nibble (R16) -/

/-- `FLAGS.C`, bit 0. -/
def flagC (f : Nibble) : Bool := f.getLsbD 0

/-- `FLAGS.S`, bit 1. -/
def flagS (f : Nibble) : Bool := f.getLsbD 1

/-- `FLAGS.Z`, bit 2. -/
def flagZ (f : Nibble) : Bool := f.getLsbD 2

/-- `FLAGS.I`, bit 3: 1 is the normal regime, 0 the power-on regime (`90_conflicts.md` C1). -/
def flagI (f : Nibble) : Bool := f.getLsbD 3

/-- The nibble with the given bits. -/
def packFlags (c s z i : Bool) : Nibble :=
  BitVec.ofBool i ++ BitVec.ofBool z ++ BitVec.ofBool s ++ BitVec.ofBool c

/-- The flag bits a bus byte carries: "flags (masked to 4 bits)" (`41_cycle.md` R115). -/
def busFlags (v : Byte) : Nibble := v.extractLsb' 0 4

/-- A flag nibble as a byte, bits 7 to 4 zero (`45_logic_bits_flags.md` R176). -/
def flagByte (f : Nibble) : Byte := f.setWidth 8

/-! ## Flag computations -/

/-- The flag nibble of `ADDF`: C is the carry of the exact sum, S and Z those of its low byte, I = 1
(`40_alu_operations.md` R96). -/
def addFlags (r l : Byte) : Nibble :=
  let s := l.toNat + r.toNat
  packFlags (decide (s > 255)) ((BitVec.ofNat 8 s).getLsbD 7) (decide (s % 256 = 0)) true

/-- The flag nibble of `SHRF`: C is the bit shifted out, S and Z those of `l >> 1`, I = 1 (`40_alu_operations.md`
R97). -/
def shrFlags (l : Byte) : Nibble :=
  packFlags (l.getLsbD 0) ((l >>> 1).getLsbD 7) (decide (l >>> 1 = 0)) true

/-! ## Jump conditions (`46_stack_and_control.md` R190) -/

/-- 000, `JMP`: always. -/
def condAlways (_ : Nibble) : Bool := true

/-- 001, `JZ`: `Z` = 1. -/
def condZero (f : Nibble) : Bool := flagZ f

/-- 010, `JNZ`: `Z` = 0. -/
def condNotZero (f : Nibble) : Bool := !flagZ f

/-- 011, `JC`: `C` = 1. -/
def condCarry (f : Nibble) : Bool := flagC f

/-- 100, `JNC`: `C` = 0. -/
def condNotCarry (f : Nibble) : Bool := !flagC f

/-- 101, `JS`: `S` = 1. -/
def condSign (f : Nibble) : Bool := flagS f

/-- 110, `JBE`: `Z` = 1 or `C` = 0. -/
def condBelowOrEqual (f : Nibble) : Bool := flagZ f || !flagC f

/-- 111, `JAE`: `Z` = 1 or `C` = 1. -/
def condAboveOrEqual (f : Nibble) : Bool := flagZ f || flagC f

end Sys2Proof.Machine
end

