-- ==== Sys2Proof/Machine/Alu.lean ====
section
/-! DEFINITION. The ALU table (`40_alu_operations.md` R90 to R102): a pure total function of selector, right operand
and left operand. The only parameter is the boot image embedded in the BOOT region. -/

namespace Sys2Proof.Machine

/-- A 16-bit value from its high and low bytes: `{hi, lo}` (`00_scope.md` R7). -/
def joinBytes (hi lo : Byte) : Addr := hi ++ lo

/-- The low byte of a 16-bit value. -/
def loByte (a : Addr) : Byte := a.extractLsb' 0 8

/-- The high byte of a 16-bit value. -/
def hiByte (a : Addr) : Byte := a.extractLsb' 8 8

/-- The eight operations, selector codes 0 to 7 (R90). -/
inductive AluOp where
  | passl | passr | nand | or | add | addf | unary | boot
  deriving DecidableEq, Repr

/-- The operation a selector code names (R90). -/
def aluOpOf (sel : BitVec 3) : AluOp :=
  match sel.toNat with
  | 0 => .passl
  | 1 => .passr
  | 2 => .nand
  | 3 => .or
  | 4 => .add
  | 5 => .addf
  | 6 => .unary
  | _ => .boot

/-- `NAND` (R93). -/
def aluNand (r l : Byte) : Byte := ~~~(l &&& r)

/-- `OR` (R94). -/
def aluOr (r l : Byte) : Byte := l ||| r

/-- `ADD`, wrapping modulo 256 (R95). -/
def aluAdd (r l : Byte) : Byte := l + r

/-- `ADDF`, the packed flags of the addition, bits 7 to 4 zero (R96). -/
def aluAddf (r l : Byte) : Byte := flagByte (addFlags r l)

/-- `XBAR`, the single-bit crossbar: bit `read_pos` = `r[5:3]` of `l` at position `write_pos` = `r[2:0]`, every other
bit 0 (R98). -/
def aluXbar (r l : Byte) : Byte :=
  let readPos := (r.extractLsb' 3 3).toNat
  let writePos := (r.extractLsb' 0 3).toNat
  (BitVec.ofBool (l.getLsbD readPos)).setWidth 8 <<< writePos

/-- `UNARY`, the function of `l` that the sub-selector `r` names (R97). -/
def aluUnary (r l : Byte) : Byte :=
  if r = 0x02 then l >>> 1
  else if r = 0x03 then flagByte (shrFlags l)
  else if r = 0x04 then 0x04
  else if r.extractLsb' 6 2 = 0b01#2 then aluXbar r l
  else 0x0C

/-- `BOOT`: the boot image inside its window, the left operand elsewhere (R99). -/
def aluBoot (img : BootImage) (r l : Byte) : Byte :=
  let a := (joinBytes r l).toNat
  if 0x0400 ≤ a ∧ a < 0x0400 + img.val.length then img.val.getD (a - 0x0400) 0 else l

/-- `ALU(sel, r, l)` (R90). -/
def alu (img : BootImage) (sel : BitVec 3) (r l : Byte) : Byte :=
  match aluOpOf sel with
  | .passl => l
  | .passr => r
  | .nand => aluNand r l
  | .or => aluOr r l
  | .add => aluAdd r l
  | .addf => aluAddf r l
  | .unary => aluUnary r l
  | .boot => aluBoot img r l

/-- The address of an ALU table entry, `{BSEL[2:0], AH, AL}` (`30_encoding.md` R64). -/
def aluAddress (sel : BitVec 3) (ah al : Byte) : BitVec 19 := sel ++ ah ++ al

/-- The ALU image: the byte at each of the 2^19 addresses (`30_encoding.md` R68). -/
def aluImage (img : BootImage) (addr : BitVec 19) : Byte :=
  alu img (addr.extractLsb' 16 3) (addr.extractLsb' 8 8) (addr.extractLsb' 0 8)

end Sys2Proof.Machine
end

