-- ==== Sys2Proof/Machine/Ops.lean ====
section
/-! DEFINITION. The named operations over memory, registers and the address register that every instruction and every
clock cycle is made of. -/

namespace Sys2Proof.Machine

/-! ## Memory (`20_memory.md` R40, R42) -/

/-- The byte a list of cells holds at an address; an unlisted byte reads 0x00, its reset value (R230). -/
def readCells : List Host.Cell → Nat → Byte
  | [], _ => 0x00
  | (k, v) :: rest, a => if k = a then v else readCells rest a

/-- The cells with the byte at an address replaced, in canonical form: addresses rising, no 0x00 listed. -/
def writeCells : List Host.Cell → Nat → Byte → List Host.Cell
  | [], a, v => if v = 0x00 then [] else [(a, v)]
  | (k, x) :: rest, a, v =>
    if a < k then (if v = 0x00 then (k, x) :: rest else (a, v) :: (k, x) :: rest)
    else if a = k then (if v = 0x00 then rest else (a, v) :: rest)
    else (k, x) :: writeCells rest a v

/-- Are the addresses of the cells above `least`, rising and inside the address space, and is no byte 0x00? -/
def canonicalFrom : Nat → List Host.Cell → Bool
  | _, [] => true
  | least, (k, v) :: rest => decide (least ≤ k) && decide (k < 65536) && decide (v ≠ 0x00) && canonicalFrom (k + 1) rest

/-- The canonical form of a memory. -/
def Memory.wf (m : Memory) : Bool := canonicalFrom 0 m.cells

/-- `MemRead(addr, 1)` (`20_memory.md` R42). -/
def Memory.read (m : Memory) (a : Addr) : Byte := readCells m.cells a.toNat

/-- `MemWrite(addr, 1, v)`: one byte changes and no other (`20_memory.md` R42). -/
def Memory.write (m : Memory) (a : Addr) (v : Byte) : Memory := ⟨writeCells m.cells a.toNat v⟩

/-- The byte of memory at an address. -/
def State.readMem (s : State) (a : Addr) : Byte := s.mem.read a

/-- The state with one byte of memory written. -/
def State.writeMem (s : State) (a : Addr) (v : Byte) : State := { s with mem := s.mem.write a v }

/-! ## The logical registers: bytes of the register-file page (`10_state.md` R11, R12) -/

/-- The slot number of a logical register (R12). -/
def slotIndex : Slot → BitVec 3
  | .pl => 0
  | .ph => 1
  | .a => 2
  | .b => 3
  | .c => 4
  | .d => 5
  | .sp => 6
  | .w => 7

/-- The address of slot number `n` of the register-file page, `0xFFF0 | n` (`20_memory.md` R41). -/
def pageAddr (n : BitVec 3) : Addr := 0xFFF0 ||| n.setWidth 16

/-- The address of a logical register (R12). -/
def slotAddr (x : Slot) : Addr := pageAddr (slotIndex x)

/-- The slot of a general register (R13). -/
def regSlot : Reg → Slot
  | .a => .a
  | .b => .b
  | .c => .c
  | .d => .d

/-- The slot that holds the low byte of a pair (R13). -/
def pairLow : Pair → Slot
  | .ab => .a
  | .cd => .c

/-- The slot that holds the high byte of a pair (R13). -/
def pairHigh : Pair → Slot
  | .ab => .b
  | .cd => .d

/-- `x[slot]`: the read of a logical register is a read of memory (`00_scope.md` R8). -/
def State.slot (s : State) (x : Slot) : Byte := s.readMem (slotAddr x)

/-- `x[slot] <- v`: the write of a logical register is a write of memory (`00_scope.md` R8). -/
def State.setSlot (s : State) (x : Slot) (v : Byte) : State := s.writeMem (slotAddr x) v

/-- `x[r]` of a general register. -/
def State.reg (s : State) (r : Reg) : Byte := s.slot (regSlot r)

/-- `x[r] <- v` of a general register. -/
def State.setReg (s : State) (r : Reg) (v : Byte) : State := s.setSlot (regSlot r) v

/-- The 16-bit pointer in a pair, `{x[high(p)], x[low(p)]}` (R13). -/
def State.pairAddr (s : State) (p : Pair) : Addr := joinBytes (s.slot (pairHigh p)) (s.slot (pairLow p))

/-! ## The address register as program counter (`10_state.md` R14) -/

/-- `pc`, the address register `{AH, AL}`. -/
def State.pc (s : State) : Addr := joinBytes s.ah s.al

/-- `pc <- target`. -/
def State.setPc (s : State) (hi lo : Byte) : State := { s with ah := hi, al := lo }

/-- The address increment, `AL` with carry into `AH`, wrapping 0xFFFF to 0x0000 (`41_cycle.md` R116). -/
def State.incPc (s : State) : State :=
  { s with al := s.al + 1, ah := if s.al = 0xFF then s.ah + 1 else s.ah }

/-! ## `T` and `FLAGS` (`10_state.md` R17, R22) -/

/-- `T <- v`. -/
def State.setT (s : State) (v : Byte) : State := { s with t := v }

/-- `FLAGS <- f`, all four bits at once (R17). -/
def State.setFlags (s : State) (f : Nibble) : State := { s with flags := f }

/-! ## Sequences that the microprograms share (`30_encoding.md` R63, R75) -/

/-- The fetch, microstep 0 of every slot of the normal regime: `IR` takes the opcode byte and the pc advances past it
(`30_encoding.md` R63). -/
def State.fetched (s : State) (i : Instr) : State := { s with ir := i.opcode }.incPc

/-- `SAVE`: `PL <- AL`, `PH <- AH` (`30_encoding.md` R75). -/
def State.savePc (s : State) : State := (s.setSlot .pl s.al).setSlot .ph s.ah

/-- The end of a slot: `BSEL` and `STEP` are 0 (`70_reset_and_hazards.md` R242, `41_cycle.md` R118). -/
def State.endSlot (s : State) : State := { s with bsel := 0, ustep := 0 }

/-- The end of a slot whose microprogram latches no select: `STEP` is 0, `BSEL` stays (`41_cycle.md` R118). -/
def State.endPlain (s : State) : State := { s with ustep := 0 }

/-- `RESTORE`: the pc is loaded from the slots `PH` and `PL`, whatever they hold by then, and the slot ends
(`30_encoding.md` R75, `70_reset_and_hazards.md` R249). -/
def State.restorePc (s : State) : State := (s.setPc (s.slot .ph) (s.slot .pl)).endSlot

/-- `T <- v ; x[slot] <- T`: a result byte on its way to a slot. -/
def State.result (s : State) (x : Slot) (v : Byte) : State := (s.setT v).setSlot x v

/-- The stack address of a stack pointer value, `{0xFF, SP}` (`46_stack_and_control.md` R179). -/
def stackAddr (sp : Byte) : Addr := joinBytes 0xFF sp

/-- A push: store at `{0xFF, SP}`, then `SP <- SP + 0xFF`, which passes through `T` (`46_stack_and_control.md` R179,
R180). -/
def State.pushByte (s : State) (v : Byte) : State :=
  let sp := s.slot .sp
  (s.writeMem (stackAddr sp) v).result .sp (aluAdd 0xFF sp)

/-- The first half of a pop: `SP <- SP + 1`, which passes through `T` (`46_stack_and_control.md` R179, R181). -/
def State.raiseSp (s : State) : State := s.result .sp (aluAdd 0x01 (s.slot .sp))

/-- The top byte of the stack once `SP` has been raised (`46_stack_and_control.md` R179). -/
def State.stackTop (s : State) : Byte := s.readMem (stackAddr (s.slot .sp))

/-- The pointer write-back of the post-increment forms: the low byte, then the high byte, each through `T`
(`30_encoding.md` R75, `43_memory_access.md` R141, R143). -/
def State.writeBack (s : State) (p : Pair) (a : Addr) : State :=
  (s.result (pairLow p) (loByte a)).result (pairHigh p) (hiByte a)

/-! ## Faults (`60_exceptions.md` R215) -/

/-- `raise Fault(kind)`: the run ends with the kind. Nothing is saved, no handler is entered and nothing returns: the
machine has no trap entry and no return from one (`60_exceptions.md` R215, R218). -/
def raiseFault (kind : Fault) : Result := .fault kind

end Sys2Proof.Machine
end

