-- ==== Sys2Proof/Machine/Operands.lean ====
section
/-! DEFINITION. The operand forms: immediate bytes in the instruction stream, addresses, and I/O ports
(`30_encoding.md` R69, R70; `20_memory.md` R43, R52). -/

namespace Sys2Proof.Machine

/-- An operand byte read after the instruction has already written memory. Every operand byte is read in the cycle that
uses it (`20_memory.md` R52), so when an earlier cycle of the same slot has changed that byte of memory (an instruction
that stands in the register-file page), the new byte is what the cycle reads; else it is the byte as decoded. `before`
is the state at the start of the slot, `s` the state at the read, whose pc addresses the operand byte. Log 7. -/
def State.lateByte (s before : State) (decoded : Byte) : Byte :=
  if s.readMem s.pc = before.readMem s.pc then decoded else s.readMem s.pc

/-- `MEM -> T ; INC`: an operand byte goes to `T` and the pc advances past it. -/
def State.takeOperand (s : State) (v : Byte) : State := (s.setT v).incPc

/-- Both bytes of a 16-bit operand, low byte first, as `LDA`, `STA` and `CALJ` read them: the low byte passes through
`T` to slot `W`, the high byte stays in `T` (`43_memory_access.md` R144, R145; `46_stack_and_control.md` R186). -/
def State.takeAddress (s before : State) (lo hi : Byte) : State :=
  let s1 := (s.takeOperand lo).setSlot .w lo
  s1.takeOperand (s1.lateByte before hi)

/-- The one-hot code of a port that `BSEL` holds during a port access (`47_io_uart.md` R196). -/
def portCode : Port → Nibble
  | .p0 => 1
  | .p1 => 2
  | .p2 => 4
  | .p3 => 8

/-- The port a one-hot code names; no other value of `BSEL` names one (`47_io_uart.md` R196). -/
def portOfCode (code : Nibble) : Option Port :=
  if code = 1 then some .p0
  else if code = 2 then some .p1
  else if code = 4 then some .p2
  else if code = 8 then some .p3
  else none

end Sys2Proof.Machine
end

