-- ==== Sys2Proof/Machine/Arithmetic.lean ====
section
/-! DEFINITION. Arithmetic and shifts (`44_arithmetic_shift.md` R150 to R160): unsigned 8-bit, wrapping. Each saves the
pc, takes the result through `T` to the register, loads all four flags, and restores the pc. -/

namespace Sys2Proof.Machine

/-- The end of an arithmetic instruction: the result byte to `T` and to the register, the flag nibble to `FLAGS`, the pc
restored. -/
def State.arithmetic (s : State) (r : Reg) (v : Byte) (f : Nibble) : State :=
  ((s.setFlags f).result (regSlot r) v).restorePc

/-- The addition of a byte to a register, with the flags of `ADDF` (R150 to R154, R158, R159). -/
def State.addTo (s : State) (r : Reg) (k : Byte) : State :=
  s.arithmetic r (aluAdd k (s.reg r)) (addFlags k (s.reg r))

/-- `FLAGS.C` as a byte, 0 or 1. -/
def carryByte (f : Nibble) : Byte := if flagC f then 0x01 else 0x00

/-- `INC r`: the register plus 1 (R150). -/
def execInc (r : Reg) (s : State) : Result := .next ((s.fetched (.inc r)).savePc.addTo r 0x01)

/-- `DEC r`: the register plus 0xFF, so `C` = 1 means no borrow (R151). -/
def execDec (r : Reg) (s : State) : Result := .next ((s.fetched (.dec r)).savePc.addTo r 0xFF)

/-- `INCC r`: the register plus the carry flag (R152). -/
def execIncc (r : Reg) (s : State) : Result := .next ((s.fetched (.incc r)).savePc.addTo r (carryByte s.flags))

/-- `DECC r`: the register plus 0 when `C` = 1, plus 0xFF when `C` = 0 (R153). -/
def execDecc (r : Reg) (s : State) : Result :=
  .next ((s.fetched (.decc r)).savePc.addTo r (if flagC s.flags then 0x00 else 0xFF))

/-- `SHL r`: the register added to itself (R154). -/
def execShl (r : Reg) (s : State) : Result := .next ((s.fetched (.shl r)).savePc.addTo r (s.reg r))

/-- `SHR r`: logical shift right, flags of `SHRF` (R155). -/
def execShr (r : Reg) (s : State) : Result :=
  let v := s.reg r
  .next ((s.fetched (.shr r)).savePc.arithmetic r (v >>> 1) (shrFlags v))

/-- `RCL r`: bit 0 takes the old carry; the flags describe `v + v` before the carry is added, and pass through `W`
(R156). -/
def execRcl (r : Reg) (s : State) : Result :=
  let v := s.reg r
  let s1 := (s.fetched (.rcl r)).savePc.setSlot .w (aluAddf v v)
  .next (s1.arithmetic r (aluAdd (carryByte s.flags) (aluAdd v v)) (addFlags v v))

/-- `RCR r`: bit 7 takes the old carry; the flags are those of `SHRF` before it is inserted (R157). -/
def execRcr (r : Reg) (s : State) : Result :=
  let v := s.reg r
  .next ((s.fetched (.rcr r)).savePc.arithmetic r ((v >>> 1) ||| (if flagC s.flags then 0x80 else 0x00)) (shrFlags v))

/-- `ADD d, s`: `x[d] <- x[d] + x[s]` (R158). -/
def execAdd (dst src : Reg) (s : State) : Result :=
  .next ((s.fetched (.add dst src)).savePc.addTo dst (s.reg src))

/-- `ADDI r, imm`: `x[r] <- x[r] + imm` (R159). -/
def execAddi (r : Reg) (imm : Byte) (s : State) : Result :=
  .next (((s.fetched (.addi r imm)).takeOperand imm).savePc.addTo r imm)

/-- `TST r`: the flags of `x[r] + 0`; neither the register nor `T` is written (R160). -/
def execTst (r : Reg) (s : State) : Result :=
  .next ((s.fetched (.tst r)).savePc.setFlags (addFlags 0x00 (s.reg r))).restorePc

end Sys2Proof.Machine
end

