-- ==== Sys2Proof/Machine/Uart.lean ====
section
/-! DEFINITION. I/O port 3: the output latch, the bit-serial UART, and the host's side of its latches
(`47_io_uart.md` R196 to R206). -/

namespace Sys2Proof.Machine

/-! ## Port 3 read: the receive line (R199) -/

/-- The value `port3_read` returns: bit 0 is the receive line, bits 7 to 1 are 0 (R199). -/
def State.port3Value (s : State) : Byte :=
  if s.rxn = 0 then
    if s.rxpend && s.out.getLsbD 1 then 0x00 else 0x01
  else (BitVec.ofBool (s.rxb.getLsbD (s.rxn.toNat - 1))).setWidth 8

/-- The receive state after a poll of port 3 (R199). -/
def State.port3Polled (s : State) : State :=
  if s.rxn = 0 then
    if s.rxpend && s.out.getLsbD 1 then { s with rxn := 1, rxidle := 0 }
    else { s with rxidle := if s.rxidle = 255 then 255 else s.rxidle + 1 }
  else if s.rxn = 8 then { s with rxn := 0, rxpend := false }
  else { s with rxn := s.rxn + 1 }

/-! ## Port 3 write: the output latch and the transmit line (R200) -/

/-- A byte with the bit at a position replaced. -/
def setBit (v : Byte) (pos : Nat) (bit : Bool) : Byte :=
  if bit then v ||| ((1 : Byte) <<< pos) else v &&& ~~~((1 : Byte) <<< pos)

/-- The transmit state after a write of port 3 and before the latch takes the byte (R200). -/
def State.txShift (s : State) (line : Bool) : State :=
  if s.txn = 0 then
    if s.out.getLsbD 0 && !line then { s with txn := 1, txb := 0x00 } else s
  else
    let b := setBit s.txb (s.txn.toNat - 1) line
    if s.txn = 8 then { s with txb := b, txn := 0, txd := b, txrdy := true }
    else { s with txb := b, txn := s.txn + 1 }

/-- `port3_write(v)` (R200). -/
def State.port3Write (s : State) (v : Byte) : State := { s.txShift (v.getLsbD 0) with out := v }

/-! ## A port by its number (R196, R197) -/

/-- The read of a port: its value and the state after it, or the fault of a port that does not exist (R197). -/
def State.readPort (s : State) : Port → Except Fault (Byte × State)
  | .p3 => .ok (s.port3Value, s.port3Polled)
  | .p0 | .p1 | .p2 => .error .unsupportedPort

/-- The write of a port, or the fault of a port that does not exist (R197). -/
def State.writePort (s : State) (v : Byte) : Port → Except Fault State
  | .p3 => .ok (s.port3Write v)
  | .p0 | .p1 | .p2 => .error .unsupportedPort

/-! ## The host's side (R205) -/

/-- `host_fill(b)`: the host puts a byte in `RXB`; it must not while one is pending (R205). -/
def hostFill (b : Byte) (s : State) : Result :=
  if s.rxpend then .refused .hostFillWhilePending else .next { s with rxb := b, rxpend := true }

/-- `host_drain()`: the host takes `TXD` when it is ready (R205). -/
def hostDrain (s : State) : State := if s.txrdy then { s with txrdy := false } else s

/-- What `host_drain()` delivers: `TXD` when it is ready, else nothing (R205). -/
def hostDelivered (s : State) : Option Byte := if s.txrdy then some s.txd else none

/-- What the host sees of the machine: the four latches that it fills and drains, and the idle-poll count it may read to
decide when to fill; nothing else, the output latch included (R205, `20_memory.md` R50). -/
structure HostView where
  rxb : Byte
  rxpend : Bool
  txrdy : Bool
  txd : Byte
  rxidle : Byte
  deriving DecidableEq, Repr

/-- The host's view of a state. -/
def State.hostView (s : State) : HostView := ⟨s.rxb, s.rxpend, s.txrdy, s.txd, s.rxidle⟩

/-- What stands on the eight output lines of port 3, visible to the outside of the machine but no part of the host's view
(R206). -/
def State.outputLines (s : State) : Byte := s.out

/-- What the host may do between two cycles (R205). -/
inductive HostAction where
  /-- `host_fill(b)`. -/
  | fill (b : Byte)
  /-- `host_drain()`. -/
  | drain
  deriving DecidableEq, Repr

/-- A host: from the cycle number and what it sees to an optional action (R205, `92_eei_decisions.md` D38). -/
abbrev HostBehaviour := Nat → HostView → Option HostAction

/-- The empty host, which never fills and never drains: the default of `92_eei_decisions.md` D38. -/
def emptyHost : HostBehaviour := fun _ _ => none

/-- The state after the host's action. -/
def hostAct (action : Option HostAction) (s : State) : Result :=
  match action with
  | none => .next s
  | some (.fill b) => hostFill b s
  | some .drain => .next (hostDrain s)

end Sys2Proof.Machine
end

