-- ==== Sys2Proof/Machine/InOut.lean ====
section
/-! DEFINITION. The I/O instructions (`47_io_uart.md` R201 to R203). A port other than 3 faults, in the cycle that
accesses it (`60_exceptions.md` R211). -/

namespace Sys2Proof.Machine

/-- A port write from `T` and the end of the slot, or the fault of a port that does not exist. -/
def State.sendPort (s : State) (q : Port) : Result :=
  match s.writePort s.t q with
  | .error f => raiseFault f
  | .ok s' => .next s'.endSlot

/-- `OUT q, r` (R201). -/
def execOut (q : Port) (r : Reg) (s : State) : Result := ((s.fetched (.out q r)).setT (s.reg r)).sendPort q

/-- `IN r, q`: one poll of the port (R202). -/
def execInp (r : Reg) (q : Port) (s : State) : Result :=
  match (s.fetched (.inp r q)).readPort q with
  | .error f => raiseFault f
  | .ok (v, s') => .next (s'.result (regSlot r) v).endSlot

/-- `OUTI q, imm` (R203). -/
def execOuti (q : Port) (imm : Byte) (s : State) : Result := ((s.fetched (.outi q imm)).takeOperand imm).sendPort q

end Sys2Proof.Machine
end

