-- ==== Sys2Proof/Machine/Microcode.lean ====
section
/-! DEFINITION. The control word (`30_encoding.md` R60 to R63), the microprogram of every instruction (files 42 to 47 of
the spec), the power-on microprogram (`70_reset_and_hazards.md` R233), and the microcode table as a function and as two
stored images (`30_encoding.md` R65 to R67). -/

namespace Sys2Proof.Machine

/-! ## The control word (R60 to R63) -/

/-- The five bus drivers, control-word bits 0 to 4 (R60). -/
inductive BusSource where
  | mem | temp | const | alu | io
  deriving DecidableEq, Repr

/-- The five load lines, control-word bits 5 to 9 (R60). -/
inductive Load where
  | mem | temp | flags | al | ah
  deriving DecidableEq, Repr

/-- What the select field does: nothing, an auxiliary load (R62), or the new value of `BSEL`. -/
inductive SelectUse where
  | none | ir | io | rst
  | latch (bsel : Nibble)
  deriving DecidableEq, Repr

/-- One row of a microprogram table in the notation of R74. -/
structure MicroOp where
  source : BusSource
  loads : List Load
  select : SelectUse
  inc : Bool
  deriving DecidableEq, Repr

/-- The output-enable bit of a driver (R60). -/
def BusSource.bits : BusSource → ControlWord
  | .mem => 0x0001
  | .temp => 0x0002
  | .const => 0x0004
  | .alu => 0x0008
  | .io => 0x0010

/-- The bit of a load line (R60). -/
def Load.bits : Load → ControlWord
  | .mem => 0x0020
  | .temp => 0x0040
  | .flags => 0x0080
  | .al => 0x0100
  | .ah => 0x0200

/-- Control-word bits 14 to 10: `LD_SEL` and the select field (R60, R62). -/
def SelectUse.bits : SelectUse → ControlWord
  | .none => 0x0000
  | .ir => 0x0400
  | .io => 0x0800
  | .rst => 0x0C00
  | .latch b => 0x4000 ||| b.setWidth 16 <<< 10

/-- The control word of a microprogram row (R60). -/
def MicroOp.word (m : MicroOp) : ControlWord :=
  m.source.bits ||| m.loads.foldr (fun l w => l.bits ||| w) 0 ||| m.select.bits ||| (if m.inc then 0x8000 else 0)

/-- A row without `INC`. -/
def row (source : BusSource) (loads : List Load) (select : SelectUse) : MicroOp := ⟨source, loads, select, false⟩

/-- A row with `INC`. -/
def rowInc (source : BusSource) (loads : List Load) (select : SelectUse) : MicroOp := ⟨source, loads, select, true⟩

/-- `sel=R.<slot>`: routing on, slot selected (R74). -/
def toSlot (x : Slot) : SelectUse := .latch (0b1#1 ++ slotIndex x)

/-- `sel=R.<register>` of a general register (R74). -/
def toReg (r : Reg) : SelectUse := toSlot (regSlot r)

/-- The selector code of an ALU operation (`40_alu_operations.md` R90). -/
def aluSelector : AluOp → BitVec 3
  | .passl => 0
  | .passr => 1
  | .nand => 2
  | .or => 3
  | .add => 4
  | .addf => 5
  | .unary => 6
  | .boot => 7

/-- `sel=<ALU operation>`: routing off (R74). -/
def toAlu (op : AluOp) : SelectUse := .latch (0b0#1 ++ aluSelector op)

/-- `IDLE`: the constant source drives the bus and nothing is loaded (R63). -/
def idleOp : MicroOp := row .const [] .none

/-- `FETCH`, microstep 0 of every slot of the normal regime (R63). -/
def fetchOp : MicroOp := rowInc .mem [] .ir

/-- `RST`, the last row of every microprogram (R63). -/
def rstOp : MicroOp := row .const [] .rst

/-! ## Recurring sequences (R75) -/

/-- `SAVE(n)`: `PL <- AL`, `PH <- AH`, then `BSEL` is `n`. -/
def saveOps (next : SelectUse) : List MicroOp :=
  [row .const [] (toSlot .pl), row .alu [.mem] (toSlot .ph), row .alu [.mem] next]

/-- The last two rows of `SAVE(n)`, for a microprogram that selected `R.PL` itself. -/
def saveTail (next : SelectUse) : List MicroOp := [row .alu [.mem] (toSlot .ph), row .alu [.mem] next]

/-- `RESTORE`, entered with `BSEL` = `R.PH`: the pc is loaded back and the slot ends. -/
def restoreOps : List MicroOp := [row .mem [.ah] (toSlot .pl), row .mem [.al] (toAlu .passl), rstOp]

/-- `WRITEBACK(lo, hi)`, entered with `BSEL` = `PASSL`: the address register goes to a pair's slots. -/
def writeBackOps (p : Pair) : List MicroOp :=
  [row .alu [.temp] (toSlot (pairLow p)), row .temp [.mem] (toAlu .passr), row .alu [.temp] (toSlot (pairHigh p)),
    row .temp [.mem] (toSlot .ph)]

/-- The tail shared by the instructions that add two operands and load the flags: entered with the operands in `AL`,
`AH` and `BSEL` = `ADD`. -/
def addTail (r : Reg) : List MicroOp :=
  [row .alu [.temp] (toAlu .addf), row .alu [.flags] (toReg r), row .temp [.mem] (toSlot .ph)] ++ restoreOps

/-- The tail shared by the two-pass logic instructions: entered with the operands in `AL`, `AH` and the operation
selected. -/
def twoPassTail (r : Reg) : List MicroOp :=
  [row .alu [.al, .ah] .none, row .alu [.temp] (toReg r), row .temp [.mem] (toSlot .ph)] ++ restoreOps

/-- The rows of a push after the pc is saved: entered with `BSEL` = `R.SP` and the byte in `T`; leaves the new `SP` in its
slot and selects `next`. -/
def pushOps (next : SelectUse) : List MicroOp :=
  [row .mem [.al] (toAlu .passl), row .const [.ah] (toAlu .nand), row .alu [.ah] (toAlu .add), row .temp [.mem] .none,
    row .alu [.temp] (toSlot .sp), row .temp [.mem] next]

/-- The rows that raise `SP` and address the stack top: entered with `BSEL` = `R.SP`. -/
def popOps : List MicroOp :=
  [row .mem [.al] (toAlu .passr), row .const [.ah] (toAlu .add), row .alu [.temp] (toSlot .sp),
    row .temp [.mem, .al] (toAlu .passl), row .const [.ah] (toAlu .nand), row .alu [.ah] (toAlu .passl)]

/-! ## Microprograms by shape -/

/-- `LD r, [p]` (`43_memory_access.md` R140). -/
def loadOps (r : Reg) (p : Pair) : List MicroOp :=
  saveOps (toSlot (pairLow p)) ++
    [row .mem [.al] (toSlot (pairHigh p)), row .mem [.ah] (toAlu .passl), row .mem [.temp] (toReg r),
      row .temp [.mem] (toSlot .ph)] ++ restoreOps

/-- `LD r, [p]+` (R141). -/
def loadIncOps (r : Reg) (p : Pair) : List MicroOp :=
  saveOps (toSlot (pairLow p)) ++
    [row .mem [.al] (toSlot (pairHigh p)), row .mem [.ah] (toAlu .passl), rowInc .mem [.temp] (toReg r),
      row .temp [.mem] (toAlu .passl)] ++ writeBackOps p ++ restoreOps

/-- The first seven rows of `ST [p], r` and `ST [p]+, r` (R142, R143). -/
def storeHead (p : Pair) (r : Reg) : List MicroOp :=
  [row .const [] (toReg r), row .mem [.temp] (toSlot .pl)] ++ saveTail (toSlot (pairLow p)) ++
    [row .mem [.al] (toSlot (pairHigh p)), row .mem [.ah] (toAlu .passl)]

/-- `ST [p], r` (R142). -/
def storeOps (p : Pair) (r : Reg) : List MicroOp := storeHead p r ++ [row .temp [.mem] (toSlot .ph)] ++ restoreOps

/-- `ST [p]+, r` (R143). -/
def storeIncOps (p : Pair) (r : Reg) : List MicroOp :=
  storeHead p r ++ [rowInc .temp [.mem] (toAlu .passl)] ++ writeBackOps p ++ restoreOps

/-- The first five rows of `LDA` and `STA`: the address bytes to `W` and `T`, the pc saved, `R.W` selected (R144, R145). -/
def absoluteHead : List MicroOp :=
  [rowInc .mem [.temp] (toSlot .w), row .temp [.mem] (toAlu .passl), rowInc .mem [.temp] (toSlot .pl)] ++
    saveTail (toSlot .w)

/-- `LDA r, [abs]` (R144). -/
def loadAbsOps (r : Reg) : List MicroOp :=
  absoluteHead ++ [row .mem [.al] (toAlu .passl), row .temp [.ah] .none, row .mem [.temp] (toReg r),
    row .temp [.mem] (toSlot .ph)] ++ restoreOps

/-- `STA [abs], r` (R145). -/
def storeAbsOps (r : Reg) : List MicroOp :=
  absoluteHead ++ [row .mem [.al] (toReg r), row .temp [.ah] .none, row .mem [.temp] (toAlu .passl),
    row .temp [.mem] (toSlot .ph)] ++ restoreOps

/-- Addition of the constant 1 (`44_arithmetic_shift.md` R150, and R152 with `C` = 1). -/
def addOneOps (r : Reg) : List MicroOp :=
  saveOps (toReg r) ++ [row .mem [.al] (toAlu .passr), row .const [.ah] (toAlu .add), idleOp] ++ addTail r

/-- Addition of the constant 0 in the shape of R150: R152 with `C` = 0. -/
def addZeroOps (r : Reg) : List MicroOp :=
  saveOps (toReg r) ++ [row .mem [.al] (toAlu .passl), row .const [.ah] (toAlu .add), idleOp] ++ addTail r

/-- Addition of the constant 0xFF, made as `NAND(v, 0)` (R151, and R153 with `C` = 0). -/
def addMinusOneOps (r : Reg) : List MicroOp :=
  saveOps (toReg r) ++ [row .mem [.al] (toAlu .passl), row .const [.ah] (toAlu .nand), row .alu [.ah] (toAlu .add)] ++
    addTail r

/-- `SHL r` (R154). -/
def shlOps (r : Reg) : List MicroOp :=
  saveOps (toReg r) ++ [row .mem [.al] (toAlu .passl), row .alu [.ah] (toAlu .add)] ++ addTail r

/-- `SHR r` (R155). -/
def shrOps (r : Reg) : List MicroOp :=
  saveOps (toReg r) ++
    [row .mem [.al] (toAlu .nand), row .const [.ah] (toAlu .unary), row .alu [.temp] (toAlu .or),
      row .const [.ah] (toAlu .unary), row .alu [.flags] (toReg r), row .temp [.mem] (toSlot .ph)] ++ restoreOps

/-- `RCL r`; the arms differ in the select latched at step 8 (R156). -/
def rclOps (r : Reg) (carry : Bool) : List MicroOp :=
  saveOps (toReg r) ++
    [row .mem [.al] (toAlu .passl), row .alu [.ah] (toAlu .addf), row .alu [.temp] (toSlot .w),
      row .temp [.mem] (toAlu .add), row .alu [.al] (toAlu (if carry then .passr else .passl)),
      row .const [.ah] (toAlu .add), row .alu [.temp] (toReg r), row .temp [.mem] (toSlot .w),
      row .mem [.flags] (toSlot .ph)] ++ restoreOps

/-- Steps 6 to 8 of `RCR r`, where its arms differ (R157). -/
def rcrArm (r : Reg) (carry : Bool) : List MicroOp :=
  if carry then [row .alu [.al] (toSlot .pl), row .const [.ah] (toAlu .or), row .alu [.temp] (toReg r)]
  else [row .alu [.temp] (toSlot .pl), idleOp, row .const [] (toReg r)]

/-- `RCR r` (R157). -/
def rcrOps (r : Reg) (carry : Bool) : List MicroOp :=
  saveOps (toReg r) ++ [row .mem [.al] (toAlu .nand), row .const [.ah] (toAlu .unary)] ++ rcrArm r carry ++
    [row .mem [.al] .none, row .temp [.mem] (toAlu .or), row .const [.ah] (toAlu .unary),
      row .alu [.flags] (toSlot .ph)] ++ restoreOps

/-- The first five rows of a two-register instruction, selecting `op` (R158, R167, R168). -/
def twoRegHead (dst src : Reg) (op : AluOp) : List MicroOp :=
  saveOps (toReg dst) ++ [row .mem [.al] (toReg src), row .mem [.ah] (toAlu op)]

/-- The first five rows of a register-immediate instruction, selecting `op` (R159, R165, R166, R172). -/
def immHead (r : Reg) (op : AluOp) : List MicroOp :=
  [rowInc .mem [.temp] (toSlot .pl)] ++ saveTail (toReg r) ++ [row .mem [.al] .none, row .temp [.ah] (toAlu op)]

/-- `TST r` (R160). -/
def tstOps (r : Reg) : List MicroOp :=
  saveOps (toReg r) ++
    [row .mem [.al] (toAlu .passl), row .const [.ah] (toAlu .addf), row .alu [.flags] (toSlot .ph)] ++ restoreOps

/-- `BMX r, xsel, mask` (`45_logic_bits_flags.md` R172). -/
def bmxOps (r : Reg) : List MicroOp :=
  immHead r .unary ++
    [row .alu [.temp] (toSlot .w), row .temp [.mem] (toSlot .ph), row .mem [.ah] (toSlot .pl),
      row .mem [.al] (toAlu .passl), rowInc .mem [.temp] .none, rstOp]

/-- `BMW r` (R173). -/
def bmwOps (r : Reg) : List MicroOp :=
  saveOps (toReg r) ++
    [row .mem [.al] .none, row .temp [.ah] (toAlu .nand), row .alu [.al, .ah] .none, row .alu [.al] (toSlot .w),
      row .mem [.ah] (toAlu .or), row .alu [.temp] (toReg r), row .temp [.mem] (toSlot .ph)] ++ restoreOps

/-- `LDF r`; the eight arms differ in the select latched at step 5, the flags below `I` (R176). -/
def ldfOps (r : Reg) (flags : Nibble) : List MicroOp :=
  saveOps (toAlu .add) ++
    [row .const [.al, .ah] (toAlu .add), row .alu [.ah] (.latch (0b0#1 ++ flags.extractLsb' 0 3)),
      row .const [.al] (toAlu .or), row .alu [.temp] (toReg r), row .temp [.mem] (toSlot .ph)] ++ restoreOps

/-- `STF r` (R177). -/
def stfOps (r : Reg) : List MicroOp := [row .const [] (toReg r), row .mem [.flags] (toAlu .passl), rstOp]

/-- `PUSH r` (`46_stack_and_control.md` R180). -/
def pushRegOps (r : Reg) : List MicroOp :=
  [row .const [] (toReg r), row .mem [.temp] (toSlot .pl)] ++ saveTail (toSlot .sp) ++ pushOps (toSlot .ph) ++ restoreOps

/-- `POP r` and `RETL`: a pop into a slot (R181, R187). -/
def popSlotOps (x : Slot) : List MicroOp :=
  saveOps (toSlot .sp) ++ popOps ++ [row .mem [.temp] (toSlot x), row .temp [.mem] (toSlot .ph)] ++ restoreOps

/-- `PSHI imm` (R182). -/
def pushImmOps : List MicroOp :=
  [rowInc .mem [.temp] (toSlot .pl)] ++ saveTail (toSlot .sp) ++ pushOps (toSlot .ph) ++ restoreOps

/-- `CALJ lo, hi, imm` (R186). -/
def caljOps : List MicroOp :=
  [rowInc .mem [.temp] (toSlot .w), row .temp [.mem] (toAlu .passl), rowInc .mem [.temp] (toSlot .ph),
    row .temp [.mem] (toAlu .passl), row .mem [.temp] (toSlot .sp)] ++ pushOps (toSlot .ph) ++
    [row .mem [.ah] (toSlot .w), row .mem [.al] (toAlu .passl), rstOp]

/-- `RETH` (R188). -/
def rethOps : List MicroOp :=
  [row .const [] (toSlot .sp)] ++ popOps ++ [row .mem [.ah] (toSlot .w), row .mem [.al] (toAlu .passl), rstOp]

/-- A jump: the taken and the not-taken arm (R189). -/
def jumpOps (taken : Bool) : List MicroOp :=
  if taken then [rowInc .mem [.temp] .none, row .mem [.ah] .none, row .temp [.al] .none, rstOp]
  else [rowInc .const [] .none, rowInc .const [] .none, idleOp, rstOp]

/-- The select that latches a port's one-hot code (`47_io_uart.md` R196, R201 to R203). -/
def toPort : Port → SelectUse
  | .p0 => .latch 1
  | .p1 => .latch 2
  | .p2 => .latch 4
  | .p3 => .latch 8

/-- The last three rows of a port write (R201, R203). -/
def writePortTail : List MicroOp := [row .temp [] .io, row .const [] (toAlu .passl), rstOp]

/-! ## The microprogram of every instruction (R66) -/

/-- The rows of an instruction's microprogram from microstep 1 on, for the flag nibble of the ROM address (R66). Only
`INCC`, `DECC`, `RCL`, `RCR`, `LDF` and the conditional jumps depend on the flags. Operand bytes play no part. -/
def microprogram : Instr → Nibble → List MicroOp
  | .nop, _ => []
  | .brk, _ => [rstOp]
  | .skp, _ => [rowInc .const [] .none, rstOp]
  | .ldt _, _ => [rowInc .mem [.temp] .none, rstOp]
  | .pshi _, _ => pushImmOps
  | .calj _ _ _, _ => caljOps
  | .retl, _ => popSlotOps .w
  | .reth, _ => rethOps
  | .ldi r _, _ => [rowInc .mem [.temp] (toReg r), row .temp [.mem] (toAlu .passl), rstOp]
  | .ldp p _ _, _ =>
    [rowInc .mem [.temp] (toSlot (pairLow p)), row .temp [.mem] (toAlu .passl),
      rowInc .mem [.temp] (toSlot (pairHigh p)), row .temp [.mem] (toAlu .passl), rstOp]
  | .mov dst src, _ =>
    [row .const [] (toReg src), row .mem [.temp] (toReg dst), row .temp [.mem] (toAlu .passl), rstOp]
  | .ld r p, _ => loadOps r p
  | .ldpi r p, _ => loadIncOps r p
  | .st p r, _ => storeOps p r
  | .stpi p r, _ => storeIncOps p r
  | .lda r _ _, _ => loadAbsOps r
  | .sta _ _ r, _ => storeAbsOps r
  | .inc r, _ => addOneOps r
  | .dec r, _ => addMinusOneOps r
  | .incc r, f => if flagC f then addOneOps r else addZeroOps r
  | .decc r, f => if flagC f then addZeroOps r else addMinusOneOps r
  | .shl r, _ => shlOps r
  | .shr r, _ => shrOps r
  | .rcl r, f => rclOps r (flagC f)
  | .rcr r, f => rcrOps r (flagC f)
  | .andi r _, _ => immHead r .nand ++ twoPassTail r
  | .ori r _, _ => immHead r .or ++ twoPassTail r
  | .and dst src, _ => twoRegHead dst src .nand ++ twoPassTail dst
  | .or dst src, _ => twoRegHead dst src .or ++ twoPassTail dst
  | .add dst src, _ => twoRegHead dst src .add ++ addTail dst
  | .addi r _, _ => immHead r .add ++ addTail r
  | .tst r, _ => tstOps r
  | .ldf r, f => ldfOps r f
  | .stf r, _ => stfOps r
  | .push r, _ => pushRegOps r
  | .pop r, _ => popSlotOps (regSlot r)
  | .jmp _ _, f => jumpOps (condAlways f)
  | .jz _ _, f => jumpOps (condZero f)
  | .jnz _ _, f => jumpOps (condNotZero f)
  | .jc _ _, f => jumpOps (condCarry f)
  | .jnc _ _, f => jumpOps (condNotCarry f)
  | .js _ _, f => jumpOps (condSign f)
  | .jbe _ _, f => jumpOps (condBelowOrEqual f)
  | .jae _ _, f => jumpOps (condAboveOrEqual f)
  | .out q r, _ => [row .const [] (toReg r), row .mem [.temp] (toPort q)] ++ writePortTail
  | .inp r q, _ => [row .const [] (toPort q), row .io [.temp] (toReg r), row .temp [.mem] (toAlu .passl), rstOp]
  | .outi q _, _ => [rowInc .mem [.temp] (toPort q)] ++ writePortTail
  | .bmw r, _ => bmwOps r
  | .bmx r _ _, _ => bmxOps r
  | .unmapped0E _, _ => []
  | .unmappedEC _, _ => []
  | .unmappedF0 _, _ => []

/-! ## The power-on microprogram (`70_reset_and_hazards.md` R233) -/

/-- Phase R, "reset, clock unstable". -/
def powerOnReset (step : Nibble) : MicroOp :=
  match step.toNat with
  | 0 => row .const [] (toAlu .add)
  | 1 => row .const [.ah] (toAlu .passl)
  | 2 => row .const [.al] (toAlu .unary)
  | 3 => row .alu [.flags] (toAlu .boot)
  | _ => idleOp

/-- Phase B, "ready to bootstrap": one byte of the copy loop. -/
def powerOnBootstrap (step : Nibble) : MicroOp :=
  match step.toNat with
  | 0 => rowInc .alu [.mem] (toAlu .passr)
  | 1 => row .alu [.flags] (toAlu .boot)
  | 2 => rstOp
  | 4 => rstOp
  | _ => idleOp

/-- Phase F, "bootstrap completion". -/
def powerOnFinish (step : Nibble) : MicroOp :=
  match step.toNat with
  | 2 => row .const [] (toAlu .add)
  | 3 => row .const [.ah] (toAlu .passl)
  | 4 => row .const [.al] (toAlu .addf)
  | 5 => row .alu [.flags] (toAlu .passl)
  | _ => idleOp

/-- `POWER_ON(flags, step)`: the phase is chosen by `Z`, then by `S` (R233). -/
def powerOn (flags step : Nibble) : MicroOp :=
  if flagZ flags then (if flagS flags then powerOnFinish step else powerOnBootstrap step) else powerOnReset step

/-! ## The microcode table (R65 to R67) -/

/-- The instruction whose microprogram an opcode byte selects; operand bytes play no part (R66, R73). -/
def decodeOpcode (ir : Byte) : Instr := decodeBytes ir 0 0 0

/-- The row of the microcode table at a ROM address (R66). -/
def ucodeRow (flags step : Nibble) (ir : Byte) : MicroOp :=
  if flagI flags then
    if step = 0 then fetchOp else (microprogram (decodeOpcode ir) flags).getD (step.toNat - 1) idleOp
  else powerOn flags step

/-- `UCODE(flags, step, ir)`, the logical control word (R66). -/
def ucode (flags step : Nibble) (ir : Byte) : ControlWord := (ucodeRow flags step ir).word

/-- The address of a control word, `{FLAGS, STEP, IR}` (R65). -/
def ucodeAddress (flags step : Nibble) (ir : Byte) : BitVec 16 := flags ++ step ++ ir

/-- The active-low mask of the stored images (R67). -/
def activeLowMask : ControlWord := 0x43FF

/-- The stored control word at a ROM address: the logical word under the active-low mask (R67). -/
def storedWord (addr : BitVec 16) : ControlWord :=
  ucode (addr.extractLsb' 12 4) (addr.extractLsb' 8 4) (addr.extractLsb' 0 8) ^^^ activeLowMask

/-- `IMG_LO`: the low byte of each stored word (R67). -/
def imageLow (addr : BitVec 16) : Byte := loByte (storedWord addr)

/-- `IMG_HI`: the high byte of each stored word (R67). -/
def imageHigh (addr : BitVec 16) : Byte := hiByte (storedWord addr)

/-- The whole microcode ROM: the half-select bit `h` above the word address (R65). -/
def ucodeImage (h : Bool) (addr : BitVec 16) : Byte := if h then imageHigh addr else imageLow addr

/-- The logical control word read back from the two images (`41_cycle.md` R111). -/
def wordFromImages (flags step : Nibble) (ir : Byte) : ControlWord :=
  joinBytes (ucodeImage true (ucodeAddress flags step ir)) (ucodeImage false (ucodeAddress flags step ir)) ^^^
    activeLowMask

end Sys2Proof.Machine
end

