-- ==== Sys2Proof/Machine/Cycle.lean ====
section
/-! DEFINITION. One clock cycle (`41_cycle.md` R110 to R118), the instruction slot as a run of cycles (R119), and a run
with a host (`47_io_uart.md` R205). -/

namespace Sys2Proof.Machine

/-! ## Fields of a control word (`30_encoding.md` R60, R62) -/

/-- Control-word bits 13 to 10: the select value or the auxiliary code. -/
def wordField (w : ControlWord) : Nibble := w.extractLsb' 10 4

/-- Control-word bit 14, `LD_SEL`. -/
def wordLatches (w : ControlWord) : Bool := w.getLsbD 14

/-- Control-word bit 15, `INC`. -/
def wordIncs (w : ControlWord) : Bool := w.getLsbD 15

/-- Does the word hold this auxiliary code? It does only with `LD_SEL` = 0 (R62). -/
def wordAux (w : ControlWord) (code : Nibble) : Bool := !wordLatches w && wordField w == code

/-- Does the word hold one of the reserved auxiliary codes 4 to 15 (R62)? -/
def wordReserved (w : ControlWord) : Bool := !wordLatches w && decide (4 ≤ (wordField w).toNat)

/-- The one driver of the bus, if exactly one output-enable is set (`41_cycle.md` R112). -/
def wordSource (w : ControlWord) : Option BusSource :=
  let oe := w.extractLsb' 0 5
  if oe = 0b00001#5 then some .mem
  else if oe = 0b00010#5 then some .temp
  else if oe = 0b00100#5 then some .const
  else if oe = 0b01000#5 then some .alu
  else if oe = 0b10000#5 then some .io
  else none

/-! ## What a cycle reads (R41, R112, R113) -/

/-- `BSEL[2:0]`. -/
def State.sel (s : State) : BitVec 3 := s.bsel.extractLsb' 0 3

/-- `BSEL[3]`, the routing bit. -/
def State.route (s : State) : Bool := s.bsel.getLsbD 3

/-- `maddr`: the register-file page when routing is on, else the address register (`20_memory.md` R41). -/
def State.maddr (s : State) : Addr := if s.route then pageAddr s.sel else s.pc

/-- What the constant source drives, `{BSEL[3], 0, 0, 0, 0, BSEL[2:0]}` (`41_cycle.md` R113). -/
def constByte (bsel : Nibble) : Byte := BitVec.ofBool (bsel.getLsbD 3) ++ 0b0000#4 ++ bsel.extractLsb' 0 3

/-- `alu_out`, the ALU table output of the state (`30_encoding.md` R64). -/
def State.aluOut (img : BootImage) (s : State) : Byte := alu img s.sel s.ah s.al

/-- `io_read()`: the port that `BSEL` selects (R114). -/
def State.ioRead (s : State) : Except Fault (Byte × State) :=
  match portOfCode s.bsel with
  | none => .error .unsupportedPort
  | some q => s.readPort q

/-- `io_write(v)`: the port that `BSEL` selects; `code` is the `BSEL` of the start of the cycle (R115). -/
def State.ioWrite (s : State) (code : Nibble) (v : Byte) : Except Fault State :=
  match portOfCode code with
  | none => .error .unsupportedPort
  | some q => s.writePort v q

/-- The data bus value of a cycle and the state after the read of a port, if one drives the bus (R112, R114). -/
def State.drive (img : BootImage) (s : State) : BusSource → Except Fault (Byte × State)
  | .mem => .ok (s.readMem s.maddr, s)
  | .temp => .ok (s.t, s)
  | .const => .ok (constByte s.bsel, s)
  | .alu => .ok (s.aluOut img, s)
  | .io => s.ioRead

/-! ## What a cycle loads (R115 to R118) -/

/-- The address register after a cycle: loads from the bus, and the increment (R115, R116). -/
def State.loadAddress (s : State) (w : ControlWord) (bus : Byte) : State :=
  let ldAl := w.getLsbD 8
  let ldAh := w.getLsbD 9
  let incs := wordIncs w && !ldAl
  { s with
    al := if ldAl then bus else if incs then s.al + 1 else s.al
    ah := if ldAh then bus else if incs && s.al == 0xFF then s.ah + 1 else s.ah }

/-- The loads of a cycle other than the address register and a port (R115). -/
def State.loadRegisters (s : State) (w : ControlWord) (bus : Byte) : State :=
  { s with
    mem := if w.getLsbD 5 then s.mem.write s.maddr bus else s.mem
    t := if w.getLsbD 6 then bus else s.t
    flags := if w.getLsbD 7 then busFlags bus else s.flags
    bsel := if wordLatches w then wordField w else s.bsel
    ir := if wordAux w 1 then bus else s.ir }

/-- The microstep advance; `true` is instruction-complete (R118). -/
def State.advance (s : State) (w : ControlWord) : State × Bool :=
  if wordAux w 3 then ({ s with ustep := 0 }, true) else ({ s with ustep := s.ustep + 1 }, s.ustep == 15)

/-- One cycle under a given control word, the checks in the order of `60_exceptions.md` R216. Total on every word and
every state; a fault leaves no state behind (R215). -/
def cycleWord (img : BootImage) (w : ControlWord) (s : State) : Except Fault (State × Bool) :=
  match wordSource w with
  | none => .error .busContention
  | some source =>
    match s.drive img source with
    | .error f => .error f
    | .ok (bus, s1) =>
      if wordReserved w then .error .reservedAux
      else
        let s2 := (s1.loadRegisters w bus).loadAddress w bus
        if wordAux w 2 then
          match s2.ioWrite s.bsel bus with
          | .error f => .error f
          | .ok s3 => .ok (s3.advance w)
        else .ok (s2.advance w)

/-- `cycle`: one clock cycle (R110, R111). -/
def cycle (img : BootImage) (s : State) : Except Fault (State × Bool) :=
  cycleWord img (ucode s.flags s.ustep s.ir) s

/-! ## The instruction slot (R119) -/

/-- The outcome of running cycles to the one that reports instruction-complete. -/
inductive SlotEnd where
  /-- The slot completed; with the number of cycles it took. -/
  | complete (s : State) (cycles : Nat)
  /-- A cycle faulted. -/
  | fault (kind : Fault)
  /-- The fuel ran out first; sixteen cycles always reach the end of a slot (R118). -/
  | unfinished (s : State)
  deriving DecidableEq, Repr

/-- Run cycles, at most `fuel` of them, until one reports instruction-complete; `done` counts those run before. -/
def slotLoop (img : BootImage) : Nat → Nat → State → SlotEnd
  | 0, _, s => .unfinished s
  | fuel + 1, done, s =>
    match cycle img s with
    | .error f => .fault f
    | .ok (s', true) => .complete s' (done + 1)
    | .ok (s', false) => slotLoop img fuel (done + 1) s'

/-- `run_instruction`: the cycles of one slot (R119). Every slot ends within 16 cycles. -/
def slotEnd (img : BootImage) (s : State) : SlotEnd := slotLoop img 16 0 s

/-- One slot run through `cycle`, as an outcome (R119). -/
def runSlot (img : BootImage) (s : State) : Result :=
  match slotEnd img s with
  | .complete s' _ => .next s'
  | .fault f => raiseFault f
  | .unfinished s' => .next s'

/-! ## Cycles with a host (R110, R205) -/

/-- One cycle, numbered `k`, the host acting before it (`47_io_uart.md` R205). -/
def hostedCycle (img : BootImage) (host : HostBehaviour) (k : Nat) (s : State) : Result :=
  match hostAct (host k s.hostView) s with
  | .refused r => .refused r
  | .fault f => .fault f
  | .next s1 =>
    match cycle img s1 with
    | .error f => raiseFault f
    | .ok (s2, _) => .next s2

/-- `n` cycles, numbered from `k`: the machine never stops by itself, so a caller may drive it past any slot (R120). -/
def runCyclesWithHost (img : BootImage) (host : HostBehaviour) : Nat → Nat → State → Result
  | 0, _, s => .next s
  | n + 1, k, s =>
    match hostedCycle img host k s with
    | .next s1 => runCyclesWithHost img host n (k + 1) s1
    | .fault f => .fault f
    | .refused r => .refused r

/-! ## The end of a run (R120) -/

/-- A slot has just completed and left `IR` = 0x01, `BRK`: the end of a run (R120). A cycle completes a slot exactly when
it leaves `STEP` = 0 (R118). -/
def State.atBreak (s : State) : Bool := s.ustep == 0 && s.ir == 0x01

end Sys2Proof.Machine
end

