-- ==== Sys2Proof/Machine/LogicFlags.lean ====
section
/-! DEFINITION. Bitwise logic, the two halves of the bit move, and flag access (`45_logic_bits_flags.md` R165 to R177).
Only `STF` writes `FLAGS`. -/

namespace Sys2Proof.Machine

/-- `ANDI r, imm` (R165). -/
def execAndi (r : Reg) (imm : Byte) (s : State) : Result :=
  let s1 := ((s.fetched (.andi r imm)).takeOperand imm).savePc
  .next (s1.result (regSlot r) (s1.reg r &&& imm)).restorePc

/-- `ORI r, imm` (R166). -/
def execOri (r : Reg) (imm : Byte) (s : State) : Result :=
  let s1 := ((s.fetched (.ori r imm)).takeOperand imm).savePc
  .next (s1.result (regSlot r) (s1.reg r ||| imm)).restorePc

/-- `AND d, s` (R167). -/
def execAnd (dst src : Reg) (s : State) : Result :=
  let s1 := (s.fetched (.and dst src)).savePc
  .next (s1.result (regSlot dst) (s1.reg dst &&& s1.reg src)).restorePc

/-- `OR d, s` (R168). -/
def execOr (dst src : Reg) (s : State) : Result :=
  let s1 := (s.fetched (.or dst src)).savePc
  .next (s1.result (regSlot dst) (s1.reg dst ||| s1.reg src)).restorePc

/-- `BMX r, xsel, mask`: `W` takes the `UNARY` output; the pc is restored before the mask byte is read into `T`
(R172). -/
def execBmx (r : Reg) (xsel mask : Byte) (s : State) : Result :=
  let s1 := ((s.fetched (.bmx r xsel mask)).takeOperand xsel).savePc
  let s2 := (s1.result .w (aluUnary xsel (s1.reg r))).restorePc
  .next (s2.takeOperand (s2.lateByte s mask)).endSlot

/-- `BMW r`: `x[r] <- (x[r] & T) | W` with the `T` and `W` that stand there (R173). -/
def execBmw (r : Reg) (s : State) : Result :=
  let s1 := (s.fetched (.bmw r)).savePc
  .next (s1.result (regSlot r) ((s1.reg r &&& s1.t) ||| s1.slot .w)).restorePc

/-- `LDF r`: `x[r] <- zext_8(FLAGS)` (R176). -/
def execLdf (r : Reg) (s : State) : Result :=
  .next ((s.fetched (.ldf r)).savePc.result (regSlot r) (flagByte s.flags)).restorePc

/-- `STF r`: `FLAGS <- x[r][3:0]`. With `I` = 1 the slot ends. With `I` = 0 the sequencer is in the power-on regime from
microstep 3 of this very slot on, and the slot goes on under those tables (R177, `70_reset_and_hazards.md` R245). -/
def execStf (r : Reg) (s : State) : Result :=
  let f := busFlags (s.reg r)
  let s1 := { (s.fetched (.stf r)).setFlags f with bsel := 0 }
  if flagI f then .next s1.endSlot else runSlot Config.bootImage { s1 with ustep := 3 }

end Sys2Proof.Machine
end

