-- ==== Sys2Proof/Machine/MemoryAccess.lean ====
section
/-! DEFINITION. Loads and stores (`43_memory_access.md` R140 to R145). Each saves the pc in `PL`, `PH`, moves one byte,
and restores the pc from those slots, so a store that hits them redirects execution (`70_reset_and_hazards.md` R249). -/

namespace Sys2Proof.Machine

/-- `LD r, [p]` (R140). -/
def execLd (r : Reg) (p : Pair) (s : State) : Result :=
  let s1 := (s.fetched (.ld r p)).savePc
  .next (s1.result (regSlot r) (s1.readMem (s1.pairAddr p))).restorePc

/-- `LD r, [p]+`: the pointer write-back comes after `x[r]` and wins (R141). -/
def execLdpi (r : Reg) (p : Pair) (s : State) : Result :=
  let s1 := (s.fetched (.ldpi r p)).savePc
  let a := s1.pairAddr p
  .next ((s1.result (regSlot r) (s1.readMem a)).writeBack p (a + 1)).restorePc

/-- `ST [p], r` (R142). -/
def execSt (p : Pair) (r : Reg) (s : State) : Result :=
  let s1 := ((s.fetched (.st p r)).setT (s.reg r)).savePc
  .next (s1.writeMem (s1.pairAddr p) (s.reg r)).restorePc

/-- `ST [p]+, r`: the pointer is read before the store and written back after it (R143). -/
def execStpi (p : Pair) (r : Reg) (s : State) : Result :=
  let s1 := ((s.fetched (.stpi p r)).setT (s.reg r)).savePc
  let a := s1.pairAddr p
  .next ((s1.writeMem a (s.reg r)).writeBack p (a + 1)).restorePc

/-- `LDA r, [abs]`: the low address byte passes through `W` (R144). -/
def execLda (r : Reg) (lo hi : Byte) (s : State) : Result :=
  let s1 := ((s.fetched (.lda r lo hi)).takeAddress s lo hi).savePc
  let a := joinBytes s1.t (s1.slot .w)
  .next (s1.result (regSlot r) (s1.readMem a)).restorePc

/-- `STA [abs], r`: `x[r]` is read after `W`, `PL`, `PH` are written (R145). -/
def execSta (lo hi : Byte) (r : Reg) (s : State) : Result :=
  let s1 := ((s.fetched (.sta lo hi r)).takeAddress s lo hi).savePc
  let a := joinBytes s1.t (s1.slot .w)
  .next ((s1.setT (s1.reg r)).writeMem a (s1.reg r)).restorePc

end Sys2Proof.Machine
end

