-- ==== Sys2Proof/Machine/MoveLoad.lean ====
section
/-! DEFINITION. No-op, immediate loads and moves (`42_move_and_load.md` R130 to R134), and the unmapped opcodes
(`30_encoding.md` R72). None touches `FLAGS`, `PL`, `PH` or `W`. -/

namespace Sys2Proof.Machine

/-- `NOP`: only the pc and `IR` change (R130). -/
def execNop (s : State) : Result := .next (s.fetched .nop).endPlain

/-- `LDI r, imm`: `x[r] <- imm`; `T` <- imm (R131). -/
def execLdi (r : Reg) (imm : Byte) (s : State) : Result :=
  let s1 := (s.fetched (.ldi r imm)).takeOperand imm
  .next (s1.setReg r imm).endSlot

/-- `LDP p, lo, hi`: the low byte is written before the high byte is read (R132). -/
def execLdp (p : Pair) (lo hi : Byte) (s : State) : Result :=
  let s1 := ((s.fetched (.ldp p lo hi)).takeOperand lo).setSlot (pairLow p) lo
  let v := s1.lateByte s hi
  .next ((s1.takeOperand v).setSlot (pairHigh p) v).endSlot

/-- `LDT imm`: `T <- imm` (R133). -/
def execLdt (imm : Byte) (s : State) : Result := .next ((s.fetched (.ldt imm)).takeOperand imm).endPlain

/-- `MOV d, s`: `x[d] <- x[s]` through `T` (R134). -/
def execMov (dst src : Reg) (s : State) : Result :=
  .next ((s.fetched (.mov dst src)).result (regSlot dst) (s.reg src)).endSlot

/-- Unmapped opcodes 0x0E, 0x0F: as `NOP`, `IR` holding their own value (`30_encoding.md` R72). -/
def execUnmapped0E (op : Byte) (s : State) : Result := .next (s.fetched (.unmapped0E op)).endPlain

/-- Unmapped opcodes 0xEC to 0xEF: as `NOP`, `IR` holding their own value (`30_encoding.md` R72). -/
def execUnmappedEC (op : Byte) (s : State) : Result := .next (s.fetched (.unmappedEC op)).endPlain

/-- Unmapped opcodes 0xF0 to 0xFF: as `NOP`, `IR` holding their own value (`30_encoding.md` R72). -/
def execUnmappedF0 (op : Byte) (s : State) : Result := .next (s.fetched (.unmappedF0 op)).endPlain

end Sys2Proof.Machine
end

