-- ==== Sys2Proof/Machine/StackControl.lean ====
section
/-! DEFINITION. Stack, call and return halves, jumps, and the two debug opcodes (`46_stack_and_control.md` R179 to
R193). None writes `FLAGS`. -/

namespace Sys2Proof.Machine

/-- `PUSH r`: the byte is read before the pc is saved (R180). -/
def execPush (r : Reg) (s : State) : Result := .next ((s.fetched (.push r)).savePc.pushByte (s.reg r)).restorePc

/-- `POP r` (R181). -/
def execPop (r : Reg) (s : State) : Result :=
  let s1 := (s.fetched (.pop r)).savePc.raiseSp
  .next (s1.result (regSlot r) s1.stackTop).restorePc

/-- `PSHI imm` (R182). -/
def execPshi (imm : Byte) (s : State) : Result :=
  .next (((s.fetched (.pshi imm)).takeOperand imm).savePc.pushByte imm).restorePc

/-- `CALJ lo, hi, imm`: the target passes through `W` and `PH` and is read back from them after the push; the fourth byte
is read without advancing the pc (R186). -/
def execCalj (lo hi imm : Byte) (s : State) : Result :=
  let s1 := (s.fetched (.calj lo hi imm)).takeAddress s lo hi
  let s2 := s1.setSlot .ph s1.t
  let s3 := s2.pushByte (s2.lateByte s imm)
  .next (s3.setPc (s3.slot .ph) (s3.slot .w)).endSlot

/-- `RETL`: pop into `W` (R187). -/
def execRetl (s : State) : Result :=
  let s1 := (s.fetched .retl).savePc.raiseSp
  .next (s1.result .w s1.stackTop).restorePc

/-- `RETH`: pop the high byte and jump to it and `W` (R188). -/
def execReth (s : State) : Result :=
  let s1 := (s.fetched .reth).raiseSp
  .next (s1.setPc s1.stackTop (s1.slot .w)).endSlot

/-- A jump after its fetch: taken, the pc takes the target and `T` its low byte; not taken, the pc passes the operand
bytes unread (R189). -/
def State.jump (s : State) (taken : Bool) (lo hi : Byte) : State :=
  (if taken then (s.setT lo).setPc hi lo else s.incPc.incPc).endPlain

/-- `JMP lo, hi` (R189, R190). -/
def execJmp (lo hi : Byte) (s : State) : Result := .next ((s.fetched (.jmp lo hi)).jump (condAlways s.flags) lo hi)

/-- `JZ lo, hi` (R189, R190). -/
def execJz (lo hi : Byte) (s : State) : Result := .next ((s.fetched (.jz lo hi)).jump (condZero s.flags) lo hi)

/-- `JNZ lo, hi` (R189, R190). -/
def execJnz (lo hi : Byte) (s : State) : Result := .next ((s.fetched (.jnz lo hi)).jump (condNotZero s.flags) lo hi)

/-- `JC lo, hi` (R189, R190). -/
def execJc (lo hi : Byte) (s : State) : Result := .next ((s.fetched (.jc lo hi)).jump (condCarry s.flags) lo hi)

/-- `JNC lo, hi` (R189, R190). -/
def execJnc (lo hi : Byte) (s : State) : Result := .next ((s.fetched (.jnc lo hi)).jump (condNotCarry s.flags) lo hi)

/-- `JS lo, hi` (R189, R190). -/
def execJs (lo hi : Byte) (s : State) : Result := .next ((s.fetched (.js lo hi)).jump (condSign s.flags) lo hi)

/-- `JBE lo, hi` (R189, R190). -/
def execJbe (lo hi : Byte) (s : State) : Result :=
  .next ((s.fetched (.jbe lo hi)).jump (condBelowOrEqual s.flags) lo hi)

/-- `JAE lo, hi` (R189, R190). -/
def execJae (lo hi : Byte) (s : State) : Result :=
  .next ((s.fetched (.jae lo hi)).jump (condAboveOrEqual s.flags) lo hi)

/-- `BRK`: a 2-cycle no-op; it does not trap (R191, `60_exceptions.md` R214). -/
def execBrk (s : State) : Result := .next (s.fetched .brk).endPlain

/-- `SKP`: the pc passes one more byte, unread (R192). -/
def execSkp (s : State) : Result := .next (s.fetched .skp).incPc.endPlain

end Sys2Proof.Machine
end

