-- ==== Sys2Proof/Machine/Dispatch.lean ====
section
/-! DEFINITION. The dispatch of every instruction to its meaning: its effect over one slot of the normal regime, from a
state at the start of the slot (`41_cycle.md` R119). -/

namespace Sys2Proof.Machine

/-- The effect of an instruction whose opcode byte stands at the pc (`41_cycle.md` R119). -/
def exec (i : Instr) (s : State) : Host.Outcome State Fault Refusal :=
  match i with
  | .nop => Sys2Proof.Machine.execNop s
  | .brk => Sys2Proof.Machine.execBrk s
  | .skp => Sys2Proof.Machine.execSkp s
  | .ldt imm => Sys2Proof.Machine.execLdt imm s
  | .pshi imm => Sys2Proof.Machine.execPshi imm s
  | .calj lo hi imm => Sys2Proof.Machine.execCalj lo hi imm s
  | .retl => Sys2Proof.Machine.execRetl s
  | .reth => Sys2Proof.Machine.execReth s
  | .ldi r imm => Sys2Proof.Machine.execLdi r imm s
  | .ldp p lo hi => Sys2Proof.Machine.execLdp p lo hi s
  | .mov dst src => Sys2Proof.Machine.execMov dst src s
  | .ld r p => Sys2Proof.Machine.execLd r p s
  | .ldpi r p => Sys2Proof.Machine.execLdpi r p s
  | .st p r => Sys2Proof.Machine.execSt p r s
  | .stpi p r => Sys2Proof.Machine.execStpi p r s
  | .lda r lo hi => Sys2Proof.Machine.execLda r lo hi s
  | .sta lo hi r => Sys2Proof.Machine.execSta lo hi r s
  | .inc r => Sys2Proof.Machine.execInc r s
  | .dec r => Sys2Proof.Machine.execDec r s
  | .incc r => Sys2Proof.Machine.execIncc r s
  | .decc r => Sys2Proof.Machine.execDecc r s
  | .shl r => Sys2Proof.Machine.execShl r s
  | .shr r => Sys2Proof.Machine.execShr r s
  | .rcl r => Sys2Proof.Machine.execRcl r s
  | .rcr r => Sys2Proof.Machine.execRcr r s
  | .andi r imm => Sys2Proof.Machine.execAndi r imm s
  | .ori r imm => Sys2Proof.Machine.execOri r imm s
  | .and dst src => Sys2Proof.Machine.execAnd dst src s
  | .or dst src => Sys2Proof.Machine.execOr dst src s
  | .add dst src => Sys2Proof.Machine.execAdd dst src s
  | .addi r imm => Sys2Proof.Machine.execAddi r imm s
  | .tst r => Sys2Proof.Machine.execTst r s
  | .ldf r => Sys2Proof.Machine.execLdf r s
  | .stf r => Sys2Proof.Machine.execStf r s
  | .push r => Sys2Proof.Machine.execPush r s
  | .pop r => Sys2Proof.Machine.execPop r s
  | .jmp lo hi => Sys2Proof.Machine.execJmp lo hi s
  | .jz lo hi => Sys2Proof.Machine.execJz lo hi s
  | .jnz lo hi => Sys2Proof.Machine.execJnz lo hi s
  | .jc lo hi => Sys2Proof.Machine.execJc lo hi s
  | .jnc lo hi => Sys2Proof.Machine.execJnc lo hi s
  | .js lo hi => Sys2Proof.Machine.execJs lo hi s
  | .jbe lo hi => Sys2Proof.Machine.execJbe lo hi s
  | .jae lo hi => Sys2Proof.Machine.execJae lo hi s
  | .out q r => Sys2Proof.Machine.execOut q r s
  | .inp r q => Sys2Proof.Machine.execInp r q s
  | .outi q imm => Sys2Proof.Machine.execOuti q imm s
  | .bmw r => Sys2Proof.Machine.execBmw r s
  | .bmx r xsel mask => Sys2Proof.Machine.execBmx r xsel mask s
  | .unmapped0E op => Sys2Proof.Machine.execUnmapped0E op s
  | .unmappedEC op => Sys2Proof.Machine.execUnmappedEC op s
  | .unmappedF0 op => Sys2Proof.Machine.execUnmappedF0 op s

end Sys2Proof.Machine
end

