-- ==== Sys2Proof/Machine/Step.lean ====
section
/-! DEFINITION. One step of the machine: one instruction slot (`41_cycle.md` R119). -/

namespace Sys2Proof.Machine

/-- The state stands at the start of an instruction slot of the normal regime: `I` = 1, `STEP` = 0, `BSEL[3]` = 0
(`10_state.md` R14, R16). -/
def State.atFetch (s : State) : Bool := flagI s.flags && s.ustep == 0 && !s.route

/-- The instruction whose bytes stand at the pc (`30_encoding.md` R69, `20_memory.md` R43, R52). -/
def State.fetchInstr (s : State) : Instr :=
  decodeBytes (s.readMem s.pc) (s.readMem (s.pc + 1)) (s.readMem (s.pc + 2)) (s.readMem (s.pc + 3))

/-- One slot. At the start of a slot of the normal regime the instruction at the pc runs. In every other state (the
power-on regime, or a slot already under way) the sequencer runs its cycles to the end of the slot. Log 4, log 8. -/
def step (s : State) : Host.Outcome State Fault Refusal :=
  if s.atFetch then exec s.fetchInstr s else runSlot Config.bootImage s

/-- The state with an instruction's bytes placed where the next fetch reads them, and the sequencer at the start of a slot
of the normal regime: `I` = 1, `STEP` = 0, routing off (`70_reset_and_hazards.md` R237). Log 6. -/
def State.withFetchWord (s : State) (nbits w : Nat) : State :=
  let v := w % 2 ^ nbits
  let s1 := { s with flags := s.flags ||| 0b1000, ustep := 0, bsel := s.bsel &&& 0b0111 }
  (((s1.writeMem s.pc (tableByte v 0)).writeMem (s.pc + 1) (tableByte v 1)).writeMem (s.pc + 2)
    (tableByte v 2)).writeMem (s.pc + 3) (tableByte v 3)

end Sys2Proof.Machine
end

