-- ==== Sys2Proof/Machine/Run.lean ====
section
/-! DEFINITION. A run of the machine. It ends at the first slot that completes with `IR` = 0x01 (`BRK`), or at a fault
(`41_cycle.md` R120, `46_stack_and_control.md` R191, `92_eei_decisions.md` D39). Log 18. -/

namespace Sys2Proof.Machine

/-- How a run ends; `done` numbers the cycle, or the step, that would come next. -/
inductive RunEnd where
  /-- A slot completed with `IR` = 0x01: the end of the run. -/
  | ended (s : State) (done : Nat)
  /-- The cycle or step numbered `done` faulted. -/
  | fault (kind : Fault) (done : Nat)
  /-- The host's action before the cycle numbered `done` was refused (`47_io_uart.md` R205). -/
  | refused (reason : Refusal) (done : Nat)
  /-- The fuel ran out: the machine never stops by itself (R120). -/
  | running (s : State)
  deriving DecidableEq, Repr

/-- Advance at most `fuel` times, numbered from `k`, to the end of the run. -/
def runUntilBreak (advance : Nat → State → Result) : Nat → Nat → State → RunEnd
  | 0, _, s => .running s
  | fuel + 1, k, s =>
    match advance k s with
    | .fault f => .fault f k
    | .refused r => .refused r k
    | .next t => if t.atBreak then .ended t (k + 1) else runUntilBreak advance fuel (k + 1) t

/-- A run in clock cycles, the host acting before each one (R120, `47_io_uart.md` R205). -/
def runProgram (img : BootImage) (host : HostBehaviour) : Nat → Nat → State → RunEnd :=
  runUntilBreak (hostedCycle img host)

/-- A run in steps of the model, with the empty host (R120). -/
def runSteps : Nat → Nat → State → RunEnd := runUntilBreak fun _ s => step s

end Sys2Proof.Machine
end

