-- ==== Sys2Proof/Safety.lean ====
section
/-! DEFINITION. What counts as a safe run, and the terms in which statements about the machine are made: frames, the
slot boundary, the invariant, and runs that count cycles. -/

namespace Sys2Proof

/-! ## Instructions by what they may do -/

/-- An I/O instruction on a port that does not exist (`60_exceptions.md` R211). -/
def Instr.usesMissingPort : Instr → Bool
  | .out q _ => q != .p3
  | .inp _ q => q != .p3
  | .outi q _ => q != .p3
  | _ => false

/-- The instructions that write `FLAGS` (`70_reset_and_hazards.md` R246). -/
def Instr.writesFlags : Instr → Bool
  | .inc _ | .dec _ | .incc _ | .decc _ | .shl _ | .shr _ | .rcl _ | .rcr _ | .add _ _ | .addi _ _ | .tst _ | .stf _ =>
    true
  | _ => false

/-- `STF` of a register, the one instruction that can clear `I` (`60_exceptions.md` R219). -/
def Instr.isStf : Instr → Bool
  | .stf _ => true
  | _ => false

/-- Is the byte the opcode of an `STF` (0xAC to 0xAF)? -/
def isStfOpcode (op : Byte) : Bool := op.extractLsb' 2 6 == 0b101011#6

end Sys2Proof

namespace Sys2Proof.Machine

/-! ## Frames -/

/-- Every byte of memory outside the listed addresses reads as before. -/
def MemoryKept (s t : State) (written : List Addr) : Prop := ∀ a : Addr, a ∉ written → t.readMem a = s.readMem a

/-- The output latch and the transmit half of the UART are as before. -/
def TransmitKept (s t : State) : Prop :=
  t.out = s.out ∧ t.txb = s.txb ∧ t.txn = s.txn ∧ t.txrdy = s.txrdy ∧ t.txd = s.txd

/-- The receive half of the UART is as before. -/
def ReceiveKept (s t : State) : Prop :=
  t.rxb = s.rxb ∧ t.rxn = s.rxn ∧ t.rxidle = s.rxidle ∧ t.rxpend = s.rxpend

/-- The output latch and the whole UART are as before. -/
def UartKept (s t : State) : Prop := TransmitKept s t ∧ ReceiveKept s t

/-- One poll of port 3: the byte it answers and what it does to the receive half (`47_io_uart.md` R199; the bit order and
the idle level: log 15). -/
def ReceivePolled (s t : State) (v : Byte) : Prop :=
  t.rxb = s.rxb ∧
  (s.rxn = 0 → s.rxpend = true → s.out.getLsbD 1 = true →
    v = 0x00 ∧ t.rxn = 1 ∧ t.rxidle = 0 ∧ t.rxpend = true) ∧
  (s.rxn = 0 → s.rxpend = false ∨ s.out.getLsbD 1 = false →
    v = 0x01 ∧ t.rxn = 0 ∧ t.rxidle.toNat = min 255 (s.rxidle.toNat + 1) ∧ t.rxpend = s.rxpend) ∧
  (s.rxn ≠ 0 →
    v = (if s.rxb.getLsbD (s.rxn.toNat - 1) then 0x01 else 0x00) ∧ t.rxidle = s.rxidle ∧
    t.rxn = (if s.rxn = 8 then 0 else s.rxn + 1) ∧ t.rxpend = (if s.rxn = 8 then false else s.rxpend))

/-- One write of port 3: what it does to the output latch and to the transmit half (`47_io_uart.md` R200; the bit order and
the idle level: log 15). -/
def TransmitWritten (s t : State) (v : Byte) : Prop :=
  t.out = v ∧
  (s.txn = 0 → s.out.getLsbD 0 = true → v.getLsbD 0 = false →
    t.txn = 1 ∧ t.txb = 0x00 ∧ t.txrdy = s.txrdy ∧ t.txd = s.txd) ∧
  (s.txn = 0 → s.out.getLsbD 0 = false ∨ v.getLsbD 0 = true →
    t.txn = 0 ∧ t.txb = s.txb ∧ t.txrdy = s.txrdy ∧ t.txd = s.txd) ∧
  (s.txn ≠ 0 →
    (∀ k : Nat, k < 8 → t.txb.getLsbD k = if k + 1 = s.txn.toNat then v.getLsbD 0 else s.txb.getLsbD k) ∧
    t.txn = (if s.txn = 8 then 0 else s.txn + 1) ∧
    t.txd = (if s.txn = 8 then t.txb else s.txd) ∧ t.txrdy = (if s.txn = 8 then true else s.txrdy))

/-- The slots `PL`, `PH` hold a saved pc (`30_encoding.md` R75). -/
def PcSaved (t : State) (saved : Addr) : Prop := t.slot .pl = loByte saved ∧ t.slot .ph = hiByte saved

/-- The byte a read at `a` gives once the instruction has saved `saved` in `PL`, `PH` (`43_memory_access.md` R140: "reads
`PL`/`PH` after the save"). -/
def State.readSaved (s : State) (saved a : Addr) : Byte :=
  if a = slotAddr .ph then hiByte saved else if a = slotAddr .pl then loByte saved else s.readMem a

/-- The byte a pop reads at `a` once `SP` has been raised to `sp`, `below` being what stands elsewhere
(`46_stack_and_control.md` R181: "the just-updated `SP` itself"). -/
def popRead (below : Addr → Byte) (sp : Byte) (a : Addr) : Byte := if a = slotAddr .sp then sp else below a

/-- A slot ended: `IR` holds the opcode byte, `STEP` and `BSEL` are 0 (`41_cycle.md` R118, `70_reset_and_hazards.md`
R242). -/
def SlotEnded (i : Instr) (t : State) : Prop := t.ir = i.opcode ∧ t.ustep = 0 ∧ t.bsel = 0

/-- The flags of an exact sum: `C`, `S`, `Z` as `40_alu_operations.md` R96 gives them, `I` = 1. -/
def FlagsOfSum (f : Nibble) (l r : Byte) : Prop :=
  flagC f = decide (l.toNat + r.toNat > 255) ∧ flagS f = (l + r).getLsbD 7 ∧ flagZ f = decide (l + r = 0) ∧
    flagI f = true

/-- The flags of a right shift: `C` the bit shifted out, `S` = 0, `Z` of the shifted value, `I` = 1
(`40_alu_operations.md` R97, R101). -/
def FlagsOfShift (f : Nibble) (l : Byte) : Prop :=
  flagC f = l.getLsbD 0 ∧ flagS f = false ∧ flagZ f = decide (l >>> 1 = 0) ∧ flagI f = true

/-! ## The invariant of slot boundaries -/

/-- What holds between two slots: memory in canonical form, `STEP` = 0, routing off (`10_state.md` R14), the UART bit
counts in 0 to 8 (`10_state.md` R10), and in the power-on regime `IR` still 0x00 (`10_state.md` R20) or the `STF` that
dropped into it (`70_reset_and_hazards.md` R245). -/
def State.boundaryInv (s : State) : Prop :=
  s.mem.wf = true ∧ s.ustep = 0 ∧ s.route = false ∧ s.txn.toNat ≤ 8 ∧ s.rxn.toNat ≤ 8 ∧
    (flagI s.flags = false → s.ir = 0x00 ∨ isStfOpcode s.ir = true)

/-! ## Safe runs -/

/-- A step is safe when it does not end in a fault. -/
def SafeStep (s : State) : Prop := ∀ f : Fault, step s ≠ .fault f

/-- A run of at most `n` steps, which ends at `BRK`, is safe when it does not end in a fault (`41_cycle.md` R120). -/
def SafeRun (n : Nat) (s : State) : Prop := ∀ (f : Fault) (k : Nat), runSteps n 0 s ≠ .fault f k

/-- No cycle from number `k` on and before number `n` ends the run: none of the states after them is at a `BRK`
(`41_cycle.md` R120). -/
def BreakFree (img : BootImage) (host : HostBehaviour) (s : State) (k n : Nat) : Prop :=
  ∀ (m : Nat) (u : State), 0 < m → k + m ≤ n → runCyclesWithHost img host m k s = .next u →
    ¬(u.ustep = 0 ∧ u.ir = 0x01)

/-! ## Runs that count cycles -/

/-- `n` slots through `cycle`, with the cycles they took added to `done`; nothing if one of them faults. -/
def runSlotsCounted (img : BootImage) : Nat → Nat → State → Option (State × Nat)
  | 0, done, s => some (s, done)
  | n + 1, done, s =>
    match slotEnd img s with
    | .complete s' cycles => runSlotsCounted img n (done + cycles) s'
    | .fault _ => none
    | .unfinished _ => none

/-- The byte the boot leaves at an address of its window: the image's byte, or past the image's end the low byte of the
address (`70_reset_and_hazards.md` R235). -/
def bootWindowByte (img : BootImage) (offset : Nat) : Byte :=
  if offset < img.val.length then img.val.getD offset 0 else BitVec.ofNat 8 offset

end Sys2Proof.Machine
end

