-- ==== Sys2Proof/Certificates/Slice0/Obligations.lean ====
section
/-! DEFINITION. The statements about the machine that are to be proved. Each docstring names the rules of the spec it
rests on. Frames are said with `MemoryKept`: every byte of memory outside the listed addresses reads as before. -/

open Sys2Proof Sys2Proof.Machine

/-! ## Encoding -/

/-- Decoding an encoded well-formed instruction gives it back, with whatever bytes follow it: every operand at every
value (`30_encoding.md` R69, R70, R71). -/
def Obligations.DecodeEncodeRoundTrip : Prop :=
  ∀ (i : Instr) (rest : List Byte), i.wellFormed = true → decode (encode i ++ rest) = .ok (i, rest)

/-- What decodes is well-formed and encodes back to the bytes read: no bit of an instruction is dropped
(`30_encoding.md` R69, R73). -/
def Obligations.EncodeDecodeRoundTrip : Prop :=
  ∀ (bytes rest : List Byte) (i : Instr), decode bytes = .ok (i, rest) → i.wellFormed = true ∧ encode i ++ rest = bytes

/-- `30_encoding.md` R73: decoding is by the opcode byte alone and total, and the ranges of the rows are disjoint and
cover all 256 values. The spec marks R73 as its own inference: "[derived: from rule R71 and rule R72]". -/
def Obligations.OpcodeRowsPartition : Prop :=
  ∀ op : Byte, (opcodeRows.filter (fun row => row.matches op)).length = 1 ∧
    ∀ x y z : Byte,
      (decodeBytes op x y z).wellFormed = true ∧ (decodeBytes op x y z).opcode = op ∧
        (decodeBytes op x y z).bytes = (decodeBytes op 0 0 0).bytes ∧
        ∀ flags : Nibble, microprogram (decodeBytes op x y z) flags = microprogram (decodeBytes op 0 0 0) flags

/-- Encodings written out in the spec's instruction rules decode to the instructions they stand for
(`42_move_and_load.md` R131, R132, R134; `43_memory_access.md` R141; `45_logic_bits_flags.md` R168, R172;
`46_stack_and_control.md` R186, R189; `47_io_uart.md` R203). -/
def Obligations.SpecWordsDecode : Prop :=
  decode [0x09, 0x5A] = .ok (.ldi .b 0x5A, []) ∧
  decode [0x0D, 0x00, 0x80] = .ok (.ldp .cd 0x00 0x80, []) ∧
  decode [0x11] = .ok (.mov .a .b, []) ∧
  decode [0x2C] = .ok (.ldpi .a .cd, []) ∧
  decode [0x05, 0x00, 0x05, 0x06] = .ok (.calj 0x00 0x05 0x06, []) ∧
  decode [0xB9, 0x10, 0x04] = .ok (.jz 0x10 0x04, []) ∧
  decode [0x8B] = .ok (.or .c .d, []) ∧
  decode [0xE8, 0x5A, 0xFB] = .ok (.bmx .a 0x5A 0xFB, []) ∧
  decode [0xE3, 0xBA] = .ok (.outi .p3 0xBA, [])

/-! ## The ALU table -/

/-- `40_alu_operations.md` R91 to R95: the five operations that compute a byte from both operands or pass one of them,
with the uses of `NAND` that R93 names. -/
def Obligations.AluByteOperations : Prop :=
  ∀ (img : BootImage) (r l : Byte),
    alu img 0 r l = l ∧
    alu img 1 r l = r ∧
    (∀ k : Nat, k < 8 → (alu img 2 r l).getLsbD k = !(l.getLsbD k && r.getLsbD k)) ∧
    (∀ x : Byte, alu img 2 x x = ~~~x) ∧
    alu img 2 (alu img 2 r l) (alu img 2 r l) = l &&& r ∧
    alu img 2 0x00 l = 0xFF ∧
    (∀ k : Nat, k < 8 → (alu img 3 r l).getLsbD k = (l.getLsbD k || r.getLsbD k)) ∧
    (alu img 4 r l).toNat = (l.toNat + r.toNat) % 256

/-- `40_alu_operations.md` R96: the four bits of the packed flag nibble of the exact sum, and the zero high nibble.
The places of the bits and the zero high nibble are the spec's decisions D1 and D10. -/
def Obligations.AluAdditionFlags : Prop :=
  ∀ (img : BootImage) (r l : Byte),
    let f := alu img 5 r l
    let sum := l.toNat + r.toNat
    f.getLsbD 0 = decide (sum > 255) ∧ f.getLsbD 1 = (BitVec.ofNat 8 (sum % 256)).getLsbD 7 ∧
      f.getLsbD 2 = decide (sum % 256 = 0) ∧ f.getLsbD 3 = true ∧ ∀ k : Nat, 4 ≤ k → f.getLsbD k = false

/-- `40_alu_operations.md` R97, R98: every sub-selector of the unary family, and the single-bit crossbar. The
sub-selector codes, and `Z`, `S` of `SHRF`, are the spec's decisions D9 and D10. -/
def Obligations.AluUnaryFamily : Prop :=
  ∀ (img : BootImage) (r l : Byte),
    (r = 0x02 → (alu img 6 r l).toNat = l.toNat / 2) ∧
    (r = 0x03 → (alu img 6 r l).getLsbD 0 = l.getLsbD 0 ∧ (alu img 6 r l).getLsbD 1 = false ∧
      (alu img 6 r l).getLsbD 2 = decide (l.toNat / 2 = 0) ∧ (alu img 6 r l).getLsbD 3 = true ∧
      ∀ k : Nat, 4 ≤ k → (alu img 6 r l).getLsbD k = false) ∧
    (r = 0x04 → alu img 6 r l = 0x04) ∧
    (0x40 ≤ r.toNat → r.toNat ≤ 0x7F → ∀ k : Nat, k < 8 →
      (alu img 6 r l).getLsbD k = (decide (k = r.toNat % 8) && l.getLsbD (r.toNat / 8 % 8))) ∧
    (r ≠ 0x02 → r ≠ 0x03 → r ≠ 0x04 → r.toNat < 0x40 ∨ 0x7F < r.toNat → alu img 6 r l = 0x0C)

/-- `40_alu_operations.md` R99: the boot image inside its window of the BOOT region, the left operand elsewhere. The
window and the identity operand are the spec's decision D11. -/
def Obligations.AluBootRegion : Prop :=
  ∀ (img : BootImage) (r l : Byte),
    let a := r.toNat * 256 + l.toNat
    (∀ k : Nat, (h : k < img.val.length) → a = 0x0400 + k → alu img 7 r l = img.val[k]) ∧
      (a < 0x0400 ∨ 0x0400 + img.val.length ≤ a → alu img 7 r l = l)

/-- `40_alu_operations.md` R101: the consequences of the flag laws that the instruction rules use. The spec marks R101
as its own inference: "[derived: from rules R95, R96, R97]". -/
def Obligations.AluFlagConsequences : Prop :=
  ∀ (img : BootImage) (v : Byte),
    ((alu img 5 0x01 v).getLsbD 0 = true ↔ v = 0xFF) ∧
    ((alu img 5 0x01 v).getLsbD 0 = true ↔ alu img 4 0x01 v = 0x00) ∧
    ((alu img 5 0xFF v).getLsbD 0 = true ↔ v ≠ 0x00) ∧
    alu img 5 0x00 v = flagByte (packFlags false (v.getLsbD 7) (decide (v = 0x00)) true) ∧
    (alu img 5 v v).getLsbD 0 = v.getLsbD 7 ∧
    (alu img 6 0x03 v).getLsbD 1 = false

/-! ## The logical registers -/

/-- Where the eight logical registers stand, and that a register is its byte of memory: its read and write are the read and
write of that byte, a write there changes no other byte and no other register, and the pairs have their low byte first
(`10_state.md` R11, R12, R13; `20_memory.md` R42). The places are the spec's decisions D12 and D13. -/
def Obligations.RegistersAreBytesOfMemory : Prop :=
  (slotAddr .pl = 0xFFF0 ∧ slotAddr .ph = 0xFFF1 ∧ slotAddr .a = 0xFFF2 ∧ slotAddr .b = 0xFFF3 ∧
    slotAddr .c = 0xFFF4 ∧ slotAddr .d = 0xFFF5 ∧ slotAddr .sp = 0xFFF6 ∧ slotAddr .w = 0xFFF7) ∧
  (∀ s : State,
    s.reg .a = s.readMem 0xFFF2 ∧ s.reg .b = s.readMem 0xFFF3 ∧ s.reg .c = s.readMem 0xFFF4 ∧
      s.reg .d = s.readMem 0xFFF5 ∧ s.pairAddr .ab = s.readMem 0xFFF3 ++ s.readMem 0xFFF2 ∧
      s.pairAddr .cd = s.readMem 0xFFF5 ++ s.readMem 0xFFF4) ∧
  ∀ (s : State) (x : Slot) (a : Addr) (v : Byte), s.mem.wf = true →
    (x, a) ∈ [(Slot.pl, (0xFFF0 : Addr)), (.ph, 0xFFF1), (.a, 0xFFF2), (.b, 0xFFF3), (.c, 0xFFF4), (.d, 0xFFF5),
      (.sp, 0xFFF6), (.w, 0xFFF7)] →
    let t := s.writeMem a v
    s.setSlot x v = t ∧ s.slot x = s.readMem a ∧ t.slot x = v ∧ t.readMem a = v ∧ MemoryKept s t [a] ∧
      (∀ y : Slot, y ≠ x → t.slot y = s.slot y) ∧ t.mem.wf = true ∧ { t with mem := s.mem } = s

/-! ## The microcode table and the clock cycle -/

/-- The microcode table: every word has exactly one bus driver and no reserved auxiliary code (`30_encoding.md` R61, R62;
`60_exceptions.md` R212, R213); equal-length arms, a step position of an opcode holding `RST` for all eight values of
`FLAGS[2:0]` or for none (`70_reset_and_hazards.md` R243); the logical word is read back from the two stored images, whose
idle word is 0x43FB (`30_encoding.md` R65, R67; `41_cycle.md` R111). -/
def Obligations.MicrocodeTableIsSound : Prop :=
  (∀ (flags step : Nibble) (ir : Byte),
    (∃ k : Nat, k < 5 ∧ (ucode flags step ir).getLsbD k = true ∧
      ∀ j : Nat, j < 5 → (ucode flags step ir).getLsbD j = true → j = k) ∧
    ((ucode flags step ir).getLsbD 14 = false → ((ucode flags step ir).extractLsb' 10 4).toNat < 4)) ∧
  (∀ (x y : BitVec 3) (step : Nibble) (ir : Byte),
    ucode (0b1#1 ++ x) step ir = 0x0C04 ↔ ucode (0b1#1 ++ y) step ir = 0x0C04) ∧
  (∀ (flags step : Nibble) (ir : Byte), wordFromImages flags step ir = ucode flags step ir) ∧
  storedWord (ucodeAddress 0x8 0x1 0x00) = 0x43FB

/-- The three faults of a cycle under an arbitrary control word, in the order of `60_exceptions.md` R216, and no other
stop (`41_cycle.md` R112, R114, R115; `47_io_uart.md` R196, R197). -/
def Obligations.CycleFaultsInOrder : Prop :=
  ∀ (img : BootImage) (w : ControlWord) (s : State),
    let oneDriver := wordSource w ≠ none
    let badRead := wordSource w = some .io ∧ s.bsel ≠ 8
    let reserved := w.getLsbD 14 = false ∧ 4 ≤ (w.extractLsb' 10 4).toNat
    let badWrite := w.getLsbD 14 = false ∧ w.extractLsb' 10 4 = 2 ∧ s.bsel ≠ 8
    (¬oneDriver → cycleWord img w s = .error .busContention) ∧
    (oneDriver → badRead → cycleWord img w s = .error .unsupportedPort) ∧
    (oneDriver → ¬badRead → reserved → cycleWord img w s = .error .reservedAux) ∧
    (oneDriver → ¬badRead → ¬reserved → badWrite → cycleWord img w s = .error .unsupportedPort) ∧
    (oneDriver → ¬badRead → ¬reserved → ¬badWrite → ∃ t complete, cycleWord img w s = .ok (t, complete))

/-- What a cycle does under any control word that does not fault: the bus takes the value of the one source, every load takes
the bus, and every address comes from the state before the cycle (`20_memory.md` R41; `41_cycle.md` R112 to R116, R118). A
cycle that reads port 3 polls the receive line, one that writes it moves the latch and the transmit line, and no other
cycle touches the UART (`47_io_uart.md` R199, R200; the bit order: log 15; bit counts above 8 are left out: log 9). -/
def Obligations.CycleLoads : Prop :=
  ∀ (img : BootImage) (w : ControlWord) (s t : State) (complete : Bool),
    cycleWord img w s = .ok (t, complete) →
    let route := s.bsel.getLsbD 3
    let sel := s.bsel.extractLsb' 0 3
    let maddr : Addr := if route then 0xFFF0 ||| sel.setWidth 16 else s.ah ++ s.al
    let source := w.extractLsb' 0 5
    let latches := w.getLsbD 14
    let code := w.extractLsb' 10 4
    let writesPort := latches = false ∧ code = 2
    ∃ bus : Byte,
      (source = 0b00001#5 → bus = s.readMem maddr) ∧
      (source = 0b00010#5 → bus = s.t) ∧
      (source = 0b00100#5 → bus = BitVec.ofBool route ++ 0b0000#4 ++ sel) ∧
      (source = 0b01000#5 → bus = alu img sel s.ah s.al) ∧
      (source = 0b10000#5 → s.rxn.toNat ≤ 8 → ReceivePolled s t bus) ∧
      (source ≠ 0b10000#5 → ReceiveKept s t) ∧
      (writesPort → s.txn.toNat ≤ 8 → TransmitWritten s t bus) ∧
      (¬writesPort → TransmitKept s t) ∧
      t.mem = (if w.getLsbD 5 then s.mem.write maddr bus else s.mem) ∧
      t.t = (if w.getLsbD 6 then bus else s.t) ∧
      t.flags = (if w.getLsbD 7 then bus.extractLsb' 0 4 else s.flags) ∧
      t.bsel = (if latches then code else s.bsel) ∧
      t.ir = (if latches = false ∧ code = 1 then bus else s.ir) ∧
      t.al = (if w.getLsbD 8 then bus else if w.getLsbD 15 then s.al + 1 else s.al) ∧
      t.ah = (if w.getLsbD 9 then bus
        else if w.getLsbD 15 = true ∧ w.getLsbD 8 = false ∧ s.al = 0xFF then s.ah + 1 else s.ah) ∧
      t.ustep = (if latches = false ∧ code = 3 then 0 else s.ustep + 1) ∧
      (complete = true ↔ (latches = false ∧ code = 3) ∨ s.ustep = 15)

/-- Every slot, from every state, ends within the microsteps that are left, or at a port that does not exist: no other
fault is reachable (`41_cycle.md` R118, R119; `60_exceptions.md` R211, R212, R213). -/
def Obligations.SlotsEnd : Prop :=
  ∀ (img : BootImage) (s : State),
    (∃ (t : State) (n : Nat), slotEnd img s = .complete t n ∧ 1 ≤ n ∧ n + s.ustep.toNat ≤ 16 ∧ t.ustep = 0) ∨
      slotEnd img s = .fault .unsupportedPort

/-! ## The end of a run -/

/-- A run ends at the first slot that completes with `IR` = 0x01, or at a fault, and else goes on: exactly the cycles up to
there are run, the host acting between them (`41_cycle.md` R118, R120, `46_stack_and_control.md` R191; that a run ends so is
the spec's decision D39, how the model runs one is log 18). A `BRK` at the pc ends a run of cycles after its two cycles, and a
run of steps after its step. -/
def Obligations.RunsEndAtBreak : Prop :=
  (∀ (img : BootImage) (host : HostBehaviour) (fuel k : Nat) (s : State),
    (∀ (t : State) (n : Nat), runProgram img host fuel k s = .ended t n ↔
      k < n ∧ n ≤ k + fuel ∧ runCyclesWithHost img host (n - k) k s = .next t ∧ t.ustep = 0 ∧ t.ir = 0x01 ∧
        BreakFree img host s k (n - 1)) ∧
    (∀ (f : Fault) (n : Nat), runProgram img host fuel k s = .fault f n ↔
      k ≤ n ∧ n < k + fuel ∧ (∃ u : State, runCyclesWithHost img host (n - k) k s = .next u) ∧
        runCyclesWithHost img host (n - k + 1) k s = .fault f ∧ BreakFree img host s k n) ∧
    (∀ t : State, runProgram img host fuel k s = .running t ↔
      runCyclesWithHost img host fuel k s = .next t ∧ BreakFree img host s k (k + fuel))) ∧
  ∀ (img : BootImage) (fuel k : Nat) (s : State), s.atFetch = true → s.fetchInstr = .brk →
    ∃ t : State, exec .brk s = .next t ∧ t.pc = s.pc + 1 ∧ runProgram img emptyHost (fuel + 2) k s = .ended t (k + 2) ∧
      runSteps (fuel + 1) k s = .ended t (k + 1)

/-! ## Reset and the power-on sequence -/

/-- Every piece of state is zero after reset (`70_reset_and_hazards.md` R230). The spec marks the zeros as its
decision D27. -/
def Obligations.ResetIsZero : Prop :=
  State.reset.ir = 0 ∧ State.reset.ustep = 0 ∧ State.reset.flags = 0 ∧ State.reset.bsel = 0 ∧ State.reset.t = 0 ∧
    State.reset.al = 0 ∧ State.reset.ah = 0 ∧ (∀ a : Addr, State.reset.readMem a = 0) ∧ State.reset.out = 0 ∧
    State.reset.txb = 0 ∧ State.reset.txn = 0 ∧ State.reset.txrdy = false ∧ State.reset.txd = 0 ∧
    State.reset.rxb = 0 ∧ State.reset.rxn = 0 ∧ State.reset.rxidle = 0 ∧ State.reset.rxpend = false

/-- `70_reset_and_hazards.md` R234: four cycles of phase R from reset leave the copy pointer 0x0400 and the flag
pattern 0x4 at `STEP` = 4; the fifth ends the slot. The spec marks R234 as its own inference: "[derived: from rule
R233 and 41_cycle.md rules R111–R118]". -/
def Obligations.FirstSlotAfterReset : Prop :=
  ∀ img : BootImage,
    (∃ t : State, runCyclesWithHost img emptyHost 4 0 State.reset = .next t ∧ t.pc = 0x0400 ∧ t.flags = 0x4 ∧
      t.ustep = 4 ∧ ucode t.flags t.ustep t.ir = 0x0C04) ∧
    slotEnd img State.reset =
      .complete { State.reset with flags := 0x4, bsel := 7, ah := 0x04, al := 0x00 } 5

/-- One slot of the copy loop, from any state of phase B: the byte of the BOOT region goes to the address it stands for,
the address advances, and the low nibble of the new page number becomes `FLAGS`. While that nibble still selects phase B the
slot takes three cycles; when it selects phase F, with `IR` = 0x00, the slot finishes the boot in sixteen
(`70_reset_and_hazards.md` R233, R235, R236). The spec marks R235 and R236 as its own inference, and the words of R233 as
its decision D28. -/
def Obligations.CopyLoopSlot : Prop :=
  ∀ (img : BootImage) (s : State),
    s.ustep = 0 → s.bsel = 7 → flagI s.flags = false → flagZ s.flags = true → flagS s.flags = false →
    let next := s.pc + 1
    let page := (hiByte next).extractLsb' 0 4
    let copied := s.mem.write s.pc (alu img 7 s.ah s.al)
    (flagI page = false → flagZ page = true → flagS page = false →
      slotEnd img s =
        .complete { s with mem := copied, ah := hiByte next, al := loByte next, flags := page } 3) ∧
    (flagI page = false → flagZ page = true → flagS page = true → s.ir = 0x00 →
      slotEnd img s =
        .complete { s with mem := copied, ah := 0x04, al := 0x00, flags := 0x8, bsel := 0 } 16)

/-- The whole power-on sequence, 513 slots and 1554 cycles, ends in the boot exit state, with the boot image copied to
0x0400 (`70_reset_and_hazards.md` R235, R236). The spec marks both as its own inference: "[derived: from rules
R233–R235]". -/
def Obligations.BootReachesItsExitState : Prop :=
  ∀ img : BootImage, ∃ t : State,
    runSlotsCounted img 513 0 State.reset = some (t, 1554) ∧
    { t with mem := ⟨[]⟩ } = { State.reset with flags := 0x8, ah := 0x04, al := 0x00 } ∧
    (∀ k : Nat, k < 512 → t.readMem (BitVec.ofNat 16 (0x0400 + k)) = bootWindowByte img k) ∧
    (∀ a : Addr, a.toNat < 0x0400 ∨ 0x0600 ≤ a.toNat → t.readMem a = 0x00)

/-! ## The step -/

/-- At the start of a slot of the normal regime, a step is the meaning of the instruction whose bytes stand at the pc
(`30_encoding.md` R69, `41_cycle.md` R119). That one step is one slot, and that it uses the instruction's meaning and
not its microprogram, is the choice of the model: log 4, log 8. -/
def Obligations.StepRunsTheDecodedInstruction : Prop :=
  ∀ (s : State) (i : Instr) (rest : List Byte), s.atFetch = true →
    decode [s.readMem s.pc, s.readMem (s.pc + 1), s.readMem (s.pc + 2), s.readMem (s.pc + 3)] = .ok (i, rest) →
      i.wellFormed = true ∧ step s = exec i s

/-- In every other state a step runs the clock cycles to the end of the slot (`41_cycle.md` R119; log 4, log 20). -/
def Obligations.StepFinishesTheSlot : Prop :=
  ∀ s : State, s.atFetch = false →
    (∃ (t : State) (n : Nat), slotEnd Config.bootImage s = .complete t n ∧ step s = .next t) ∨
      (slotEnd Config.bootImage s = .fault .unsupportedPort ∧ step s = .fault .unsupportedPort)

/-- An instruction placed where the next fetch reads it is the instruction the next step runs
(`70_reset_and_hazards.md` R237; log 6). -/
def Obligations.PlacedWordRuns : Prop :=
  ∀ (s : State) (nbits w : Nat) (i : Instr), s.mem.wf = true → decodeTableWord nbits w = some i →
    (s.withFetchWord nbits w).pc = s.pc ∧ step (s.withFetchWord nbits w) = exec i (s.withFetchWord nbits w)

/-! ## The cycles of a slot do what the instruction's meaning says (`41_cycle.md` R119) -/

/-- No-ops, immediate loads, moves and jumps: the cycles of the slot compute the meaning, in the number of cycles
`30_encoding.md` R71 gives. -/
def Obligations.CyclesOfMovesAndJumps : Prop :=
  ∀ (img : BootImage) (s : State) (r q : Reg) (p : Pair) (x y : Byte),
    s.mem.wf = true → s.atFetch = true →
    s.fetchInstr ∈ [.nop, .brk, .skp, .ldt x, .ldi r x, .ldp p x y, .mov r q, .unmapped0E x, .unmappedEC x, .unmappedF0 x,
      .jmp x y, .jz x y, .jnz x y, .jc x y, .jnc x y, .js x y, .jbe x y, .jae x y] →
    ∃ t : State, exec s.fetchInstr s = .next t ∧ slotEnd img s = .complete t s.fetchInstr.steps

/-- Loads, stores and the stack: as above. -/
def Obligations.CyclesOfMemoryAndStack : Prop :=
  ∀ (img : BootImage) (s : State) (r : Reg) (p : Pair) (x y z : Byte),
    s.mem.wf = true → s.atFetch = true →
    s.fetchInstr ∈ [.ld r p, .ldpi r p, .st p r, .stpi p r, .lda r x y, .sta x y r, .push r, .pop r, .pshi x,
      .calj x y z, .retl, .reth] →
    ∃ t : State, exec s.fetchInstr s = .next t ∧ slotEnd img s = .complete t s.fetchInstr.steps

/-- Arithmetic and shifts: as above, both arms of each conditional microprogram included. -/
def Obligations.CyclesOfArithmetic : Prop :=
  ∀ (img : BootImage) (s : State) (r q : Reg) (x : Byte),
    s.mem.wf = true → s.atFetch = true →
    s.fetchInstr ∈ [.inc r, .dec r, .incc r, .decc r, .shl r, .shr r, .rcl r, .rcr r, .add r q, .addi r x, .tst r] →
    ∃ t : State, exec s.fetchInstr s = .next t ∧ slotEnd img s = .complete t s.fetchInstr.steps

/-- Logic, bit moves, flag access and port 3: as above; `STF` with a value whose bit 3 is 1. -/
def Obligations.CyclesOfLogicAndPorts : Prop :=
  ∀ (img : BootImage) (s : State) (r q : Reg) (x y : Byte),
    s.mem.wf = true → s.atFetch = true →
    (s.fetchInstr ∈ [.andi r x, .ori r x, .and r q, .or r q, .bmx r x y, .bmw r, .ldf r, .out .p3 r, .inp r .p3,
      .outi .p3 x] ∨ (s.fetchInstr = .stf r ∧ (s.reg r).getLsbD 3 = true)) →
    ∃ t : State, exec s.fetchInstr s = .next t ∧ slotEnd img s = .complete t s.fetchInstr.steps

/-- The headline: from every state at the start of a slot of the normal regime, whatever the bytes at the pc, running the
microprogram through `cycle` gives what the instruction's meaning gives, faults included (`41_cycle.md` R119). -/
def Obligations.MicroprogramsImplementTheInstructions : Prop :=
  ∀ s : State, s.mem.wf = true → s.atFetch = true → runSlot Config.bootImage s = exec s.fetchInstr s

/-! ## No-ops, jumps, immediate loads and moves -/

/-- `NOP`, `BRK`, `SKP` and the unmapped opcodes change the pc and `IR` only (`42_move_and_load.md` R130,
`46_stack_and_control.md` R191, R192, `30_encoding.md` R72). -/
def Obligations.NoOpsAdvanceThePc : Prop :=
  ∀ (s : State) (op : Byte) (i : Instr) (n : Addr),
    (i, n) ∈ [(Instr.nop, (1 : Addr)), (.brk, 1), (.skp, 2), (.unmapped0E op, 1), (.unmappedEC op, 1),
      (.unmappedF0 op, 1)] →
    ∃ t : State, exec i s = .next t ∧ t.ir = i.opcode ∧ t.pc = s.pc + n ∧ t.ustep = 0 ∧ t.bsel = s.bsel ∧
      t.flags = s.flags ∧ t.t = s.t ∧ MemoryKept s t [] ∧ UartKept s t

/-- The eight jumps: taken exactly on their condition, the pc takes `{hi, lo}` and `T` takes `lo`; not taken, the pc
passes three bytes and `T` stays (`46_stack_and_control.md` R189, R190). -/
def Obligations.JumpsFollowTheirCondition : Prop :=
  ∀ (s : State) (lo hi : Byte) (i : Instr) (taken : Bool),
    let c := s.flags.getLsbD 0
    let sg := s.flags.getLsbD 1
    let z := s.flags.getLsbD 2
    (i, taken) ∈ [(Instr.jmp lo hi, true), (.jz lo hi, z), (.jnz lo hi, !z), (.jc lo hi, c), (.jnc lo hi, !c),
      (.js lo hi, sg), (.jbe lo hi, z || !c), (.jae lo hi, z || c)] →
    ∃ t : State, exec i s = .next t ∧ t.pc = (if taken then joinBytes hi lo else s.pc + 3) ∧
      t.t = (if taken then lo else s.t) ∧ t.ir = i.opcode ∧ t.ustep = 0 ∧ t.bsel = s.bsel ∧ t.flags = s.flags ∧
      MemoryKept s t [] ∧ UartKept s t

/-- `LDI` and `MOV` put a byte in a register through `T`; `LDT` in `T` alone (`42_move_and_load.md` R131, R133, R134). -/
def Obligations.ImmediateLoadsAndMoves : Prop :=
  ∀ (s : State) (r q : Reg) (imm : Byte), s.mem.wf = true →
    (∃ t : State, exec (.ldi r imm) s = .next t ∧ SlotEnded (.ldi r imm) t ∧ t.pc = s.pc + 2 ∧ t.reg r = imm ∧
      t.t = imm ∧ t.flags = s.flags ∧ MemoryKept s t [slotAddr (regSlot r)] ∧ UartKept s t) ∧
    (∃ t : State, exec (.mov r q) s = .next t ∧ SlotEnded (.mov r q) t ∧ t.pc = s.pc + 1 ∧ t.reg r = s.reg q ∧
      t.t = s.reg q ∧ t.flags = s.flags ∧ MemoryKept s t [slotAddr (regSlot r)] ∧ UartKept s t) ∧
    (∃ t : State, exec (.ldt imm) s = .next t ∧ t.ir = 0x03 ∧ t.ustep = 0 ∧ t.bsel = s.bsel ∧ t.pc = s.pc + 2 ∧
      t.t = imm ∧ t.flags = s.flags ∧ MemoryKept s t [] ∧ UartKept s t)

/-- `LDP` loads a pair, low byte first; the high byte is read after the low byte is written (`42_move_and_load.md`
R132, `20_memory.md` R52). That it is read late is the inference of log 7. -/
def Obligations.LoadPairImmediate : Prop :=
  ∀ (s : State) (p : Pair) (lo hi : Byte), s.mem.wf = true → s.readMem (s.pc + 2) = hi →
    let hi' := if s.pc + 2 = slotAddr (pairLow p) then lo else hi
    ∃ t : State, exec (.ldp p lo hi) s = .next t ∧ SlotEnded (.ldp p lo hi) t ∧ t.pc = s.pc + 3 ∧
      t.slot (pairLow p) = lo ∧ t.slot (pairHigh p) = hi' ∧ t.t = hi' ∧ t.flags = s.flags ∧
      MemoryKept s t [slotAddr (pairLow p), slotAddr (pairHigh p)] ∧ UartKept s t

/-! ## Loads and stores -/

/-- `LD r, [p]` (`43_memory_access.md` R140). -/
def Obligations.LoadIndirect : Prop :=
  ∀ (s : State) (r : Reg) (p : Pair), s.mem.wf = true →
    let next := s.pc + 1
    let v := s.readSaved next (joinBytes (s.slot (pairHigh p)) (s.slot (pairLow p)))
    ∃ t : State, exec (.ld r p) s = .next t ∧ SlotEnded (.ld r p) t ∧ t.pc = next ∧ t.reg r = v ∧ t.t = v ∧
      PcSaved t next ∧ t.flags = s.flags ∧
      MemoryKept s t [slotAddr .pl, slotAddr .ph, slotAddr (regSlot r)] ∧ UartKept s t

/-- `LD r, [p]+`: the pointer write-back is last and wins over the loaded byte (`43_memory_access.md` R141). `T` as
the microprogram leaves it: log 21. -/
def Obligations.LoadIndirectIncrement : Prop :=
  ∀ (s : State) (r : Reg) (p : Pair), s.mem.wf = true →
    let next := s.pc + 1
    let a := joinBytes (s.slot (pairHigh p)) (s.slot (pairLow p))
    ∃ t : State, exec (.ldpi r p) s = .next t ∧ SlotEnded (.ldpi r p) t ∧ t.pc = next ∧
      (regSlot r ≠ pairLow p → regSlot r ≠ pairHigh p → t.reg r = s.readSaved next a) ∧
      joinBytes (t.slot (pairHigh p)) (t.slot (pairLow p)) = a + 1 ∧ t.t = hiByte (a + 1) ∧
      PcSaved t next ∧ t.flags = s.flags ∧
      MemoryKept s t [slotAddr .pl, slotAddr .ph, slotAddr (regSlot r), slotAddr (pairLow p), slotAddr (pairHigh p)] ∧
      UartKept s t

/-- `ST [p], r`: the byte stands at the address in the pair; a store to `PL` or `PH` replaces the saved pc byte, which
the restore then loads (`43_memory_access.md` R142, `70_reset_and_hazards.md` R249). -/
def Obligations.StoreIndirect : Prop :=
  ∀ (s : State) (p : Pair) (r : Reg), s.mem.wf = true →
    let next := s.pc + 1
    let a := joinBytes (s.slot (pairHigh p)) (s.slot (pairLow p))
    ∃ t : State, exec (.st p r) s = .next t ∧ SlotEnded (.st p r) t ∧ t.readMem a = s.reg r ∧ t.t = s.reg r ∧
      t.slot .pl = (if a = slotAddr .pl then s.reg r else loByte next) ∧
      t.slot .ph = (if a = slotAddr .ph then s.reg r else hiByte next) ∧
      t.pc = joinBytes (t.slot .ph) (t.slot .pl) ∧ t.flags = s.flags ∧
      MemoryKept s t [slotAddr .pl, slotAddr .ph, a] ∧ UartKept s t

/-- `ST [p]+, r`: the pointer is read before the store, and its write-back comes after it (`43_memory_access.md` R143,
`70_reset_and_hazards.md` R249). `T` as the microprogram leaves it: log 21. -/
def Obligations.StoreIndirectIncrement : Prop :=
  ∀ (s : State) (p : Pair) (r : Reg), s.mem.wf = true →
    let next := s.pc + 1
    let a := joinBytes (s.slot (pairHigh p)) (s.slot (pairLow p))
    ∃ t : State, exec (.stpi p r) s = .next t ∧ SlotEnded (.stpi p r) t ∧
      (a ≠ slotAddr (pairLow p) → a ≠ slotAddr (pairHigh p) → t.readMem a = s.reg r) ∧
      joinBytes (t.slot (pairHigh p)) (t.slot (pairLow p)) = a + 1 ∧ t.t = hiByte (a + 1) ∧
      t.slot .pl = (if a = slotAddr .pl then s.reg r else loByte next) ∧
      t.slot .ph = (if a = slotAddr .ph then s.reg r else hiByte next) ∧
      t.pc = joinBytes (t.slot .ph) (t.slot .pl) ∧ t.flags = s.flags ∧
      MemoryKept s t [slotAddr .pl, slotAddr .ph, a, slotAddr (pairLow p), slotAddr (pairHigh p)] ∧ UartKept s t

/-- `LDA r, [abs]`: the address bytes pass through `W` and `T`; the high byte is read after `W` is written, the data
byte after `W`, `PL`, `PH` are (`43_memory_access.md` R144, `20_memory.md` R52). That it is read late is the inference
of log 7. -/
def Obligations.LoadAbsolute : Prop :=
  ∀ (s : State) (r : Reg) (lo hi : Byte), s.mem.wf = true → s.readMem (s.pc + 2) = hi →
    let next := s.pc + 3
    let a := joinBytes (if s.pc + 2 = slotAddr .w then lo else hi) lo
    let v := if a = slotAddr .w then lo else s.readSaved next a
    ∃ t : State, exec (.lda r lo hi) s = .next t ∧ SlotEnded (.lda r lo hi) t ∧ t.pc = next ∧ t.reg r = v ∧ t.t = v ∧
      t.slot .w = lo ∧ PcSaved t next ∧ t.flags = s.flags ∧
      MemoryKept s t [slotAddr .w, slotAddr .pl, slotAddr .ph, slotAddr (regSlot r)] ∧ UartKept s t

/-- `STA [abs], r`: the address as in `LDA`; the store may hit `W`, `PL` or `PH` (`43_memory_access.md` R145,
`70_reset_and_hazards.md` R249). That the high byte is read late is the inference of log 7. -/
def Obligations.StoreAbsolute : Prop :=
  ∀ (s : State) (r : Reg) (lo hi : Byte), s.mem.wf = true → s.readMem (s.pc + 2) = hi →
    let next := s.pc + 3
    let a := joinBytes (if s.pc + 2 = slotAddr .w then lo else hi) lo
    ∃ t : State, exec (.sta lo hi r) s = .next t ∧ SlotEnded (.sta lo hi r) t ∧ t.readMem a = s.reg r ∧ t.t = s.reg r ∧
      t.slot .w = (if a = slotAddr .w then s.reg r else lo) ∧
      t.slot .pl = (if a = slotAddr .pl then s.reg r else loByte next) ∧
      t.slot .ph = (if a = slotAddr .ph then s.reg r else hiByte next) ∧
      t.pc = joinBytes (t.slot .ph) (t.slot .pl) ∧ t.flags = s.flags ∧
      MemoryKept s t [slotAddr .w, slotAddr .pl, slotAddr .ph, a] ∧ UartKept s t

/-! ## Arithmetic and shifts -/

/-- The instructions that add a byte to a register: the sum modulo 256 in the register and in `T`, all four flags from
the exact sum, the pc saved and restored (`44_arithmetic_shift.md` R150 to R154, R158, R159). -/
def Obligations.AdditionsWriteSumAndFlags : Prop :=
  ∀ (s : State) (r q : Reg) (imm : Byte) (i : Instr) (k : Byte), s.mem.wf = true →
    let c := s.flags.getLsbD 0
    (i, k) ∈ [(Instr.inc r, (0x01 : Byte)), (.dec r, 0xFF), (.incc r, if c then 0x01 else 0x00),
      (.decc r, if c then 0x00 else 0xFF), (.shl r, s.reg r), (.add r q, s.reg q), (.addi r imm, imm)] →
    let next := s.pc + BitVec.ofNat 16 i.bytes
    ∃ t : State, exec i s = .next t ∧ SlotEnded i t ∧ t.pc = next ∧ t.reg r = s.reg r + k ∧ t.t = s.reg r + k ∧
      FlagsOfSum t.flags (s.reg r) k ∧ PcSaved t next ∧
      MemoryKept s t [slotAddr .pl, slotAddr .ph, slotAddr (regSlot r)] ∧ UartKept s t

/-- `SHR`, `RCL`, `RCR`: the rotates take the old carry in; their flags describe the value before it is inserted; `RCL`
leaves the flag nibble in `W` (`44_arithmetic_shift.md` R155, R156, R157). -/
def Obligations.ShiftsAndRotates : Prop :=
  ∀ (s : State) (r : Reg), s.mem.wf = true →
    let next := s.pc + 1
    let v := s.reg r
    let c := s.flags.getLsbD 0
    (∃ t : State, exec (.shr r) s = .next t ∧ SlotEnded (.shr r) t ∧ t.pc = next ∧ (t.reg r).toNat = v.toNat / 2 ∧
      t.t = t.reg r ∧ FlagsOfShift t.flags v ∧ PcSaved t next ∧
      MemoryKept s t [slotAddr .pl, slotAddr .ph, slotAddr (regSlot r)] ∧ UartKept s t) ∧
    (∃ t : State, exec (.rcl r) s = .next t ∧ SlotEnded (.rcl r) t ∧ t.pc = next ∧
      (t.reg r).toNat = (2 * v.toNat) % 256 + c.toNat ∧ t.t = t.reg r ∧ FlagsOfSum t.flags v v ∧
      t.slot .w = t.flags.setWidth 8 ∧ PcSaved t next ∧
      MemoryKept s t [slotAddr .pl, slotAddr .ph, slotAddr .w, slotAddr (regSlot r)] ∧ UartKept s t) ∧
    (∃ t : State, exec (.rcr r) s = .next t ∧ SlotEnded (.rcr r) t ∧ t.pc = next ∧
      (t.reg r).toNat = v.toNat / 2 + 128 * c.toNat ∧ t.t = t.reg r ∧ FlagsOfShift t.flags v ∧ PcSaved t next ∧
      MemoryKept s t [slotAddr .pl, slotAddr .ph, slotAddr (regSlot r)] ∧ UartKept s t)

/-! ## Logic, bit moves and flag access -/

/-- `ANDI`, `ORI`, `AND`, `OR`: the result in the register and in `T`; no flag changes (`45_logic_bits_flags.md` R165 to
R168). -/
def Obligations.LogicWritesTheResult : Prop :=
  ∀ (s : State) (r q : Reg) (imm : Byte) (i : Instr) (v : Byte), s.mem.wf = true →
    (i, v) ∈ [(Instr.andi r imm, s.reg r &&& imm), (.ori r imm, s.reg r ||| imm), (.and r q, s.reg r &&& s.reg q),
      (.or r q, s.reg r ||| s.reg q)] →
    let next := s.pc + BitVec.ofNat 16 i.bytes
    ∃ t : State, exec i s = .next t ∧ SlotEnded i t ∧ t.pc = next ∧ t.reg r = v ∧ t.t = v ∧ t.flags = s.flags ∧
      PcSaved t next ∧ MemoryKept s t [slotAddr .pl, slotAddr .ph, slotAddr (regSlot r)] ∧ UartKept s t

/-- `BMX`: `W` takes the unary function of the register, `T` the mask byte, which is read after `W`, `PL`, `PH` are
written; the saved pc is that of the mask byte (`45_logic_bits_flags.md` R172, `20_memory.md` R52). That it is read
late is the inference of log 7. -/
def Obligations.BitExtract : Prop :=
  ∀ (img : BootImage) (s : State) (r : Reg) (xsel mask : Byte), s.mem.wf = true → s.readMem (s.pc + 2) = mask →
    ∃ t : State, exec (.bmx r xsel mask) s = .next t ∧ SlotEnded (.bmx r xsel mask) t ∧ t.pc = s.pc + 3 ∧
      t.slot .w = alu img 6 xsel (s.reg r) ∧ t.t = t.readMem (s.pc + 2) ∧
      (s.pc + 2 ∉ [slotAddr .pl, slotAddr .ph, slotAddr .w] → t.t = mask) ∧
      PcSaved t (s.pc + 2) ∧ t.flags = s.flags ∧
      MemoryKept s t [slotAddr .pl, slotAddr .ph, slotAddr .w] ∧ UartKept s t

/-- `BMW`: the masked write with whatever `T` and `W` hold (`45_logic_bits_flags.md` R173). -/
def Obligations.BitMerge : Prop :=
  ∀ (s : State) (r : Reg), s.mem.wf = true →
    let v := (s.reg r &&& s.t) ||| s.slot .w
    ∃ t : State, exec (.bmw r) s = .next t ∧ SlotEnded (.bmw r) t ∧ t.pc = s.pc + 1 ∧ t.reg r = v ∧ t.t = v ∧
      t.slot .w = s.slot .w ∧ PcSaved t (s.pc + 1) ∧ t.flags = s.flags ∧
      MemoryKept s t [slotAddr .pl, slotAddr .ph, slotAddr (regSlot r)] ∧ UartKept s t

/-- `TST` sets the flags of the register plus 0 and writes neither it nor `T`; `LDF` reads `FLAGS` into a register; `STF`
of a value with bit 3 = 1 writes `FLAGS` and nothing else (`44_arithmetic_shift.md` R160; `45_logic_bits_flags.md` R176,
R177). -/
def Obligations.TestAndFlagAccess : Prop :=
  ∀ (s : State) (r : Reg), s.mem.wf = true →
    let next := s.pc + 1
    (∃ t : State, exec (.tst r) s = .next t ∧ SlotEnded (.tst r) t ∧ t.pc = next ∧ t.t = s.t ∧
      FlagsOfSum t.flags (s.reg r) 0x00 ∧ t.reg r = s.reg r ∧ PcSaved t next ∧
      MemoryKept s t [slotAddr .pl, slotAddr .ph] ∧ UartKept s t) ∧
    (∃ t : State, exec (.ldf r) s = .next t ∧ SlotEnded (.ldf r) t ∧ t.pc = next ∧ t.reg r = s.flags.setWidth 8 ∧
      t.t = s.flags.setWidth 8 ∧ t.flags = s.flags ∧ PcSaved t next ∧
      MemoryKept s t [slotAddr .pl, slotAddr .ph, slotAddr (regSlot r)] ∧ UartKept s t) ∧
    ((s.reg r).getLsbD 3 = true → ∃ t : State, exec (.stf r) s = .next t ∧ SlotEnded (.stf r) t ∧ t.pc = next ∧
      t.flags = (s.reg r).extractLsb' 0 4 ∧ t.t = s.t ∧ MemoryKept s t [] ∧ UartKept s t)

/-- `STF` of a value with bit 3 = 0 completes too: the power-on table takes over at microstep 3 of the same slot
(`45_logic_bits_flags.md` R177, `70_reset_and_hazards.md` R233, R245). With `Z` = 1, `S` = 0 the slot ends with the
value in `FLAGS`; with `Z` = `S` = 1 the finish phase leaves `FLAGS` = 0xC at pc 0x0000; with `Z` = 0 `FLAGS` takes
the low nibble of the pc's low byte `g`, unless that nibble is itself a finish pattern (`I` = 0, `Z` = `S` = 1). Log
12. -/
def Obligations.StfClearingInit : Prop :=
  ∀ (s : State) (r : Reg), (s.reg r).getLsbD 3 = false →
    let f := (s.reg r).extractLsb' 0 4
    let next := s.pc + 1
    let g := (loByte next).extractLsb' 0 4
    let finish := g.getLsbD 3 = false ∧ g.getLsbD 2 = true ∧ g.getLsbD 1 = true
    ∃ t : State, exec (.stf r) s = .next t ∧ t.ir = (Instr.stf r).opcode ∧ t.ustep = 0 ∧ t.t = s.t ∧
      MemoryKept s t [] ∧ UartKept s t ∧
      (f.getLsbD 2 = true → f.getLsbD 1 = false → t.flags = f ∧ t.pc = next ∧ t.bsel = 0) ∧
      (f.getLsbD 2 = true → f.getLsbD 1 = true → t.flags = 0xC ∧ t.pc = 0x0000 ∧ t.bsel = 0) ∧
      (f.getLsbD 2 = false → ¬finish → t.flags = g ∧ t.pc = next ∧ t.bsel = 7) ∧
      (f.getLsbD 2 = false → finish →
        FlagsOfSum t.flags 0x07 (hiByte next) ∧ t.pc = joinBytes (hiByte next) 0x07 ∧ t.bsel = 0)

/-! ## Stack, call and return -/

/-- `PUSH` and `PSHI`: the byte at `{0xFF, SP}`, then `SP` - 1, which wins over a byte pushed onto the `SP` slot; a push
onto `PL` or `PH` redirects the pc (`46_stack_and_control.md` R179, R180, R182; `70_reset_and_hazards.md` R249). -/
def Obligations.PushStoresAndLowersSp : Prop :=
  ∀ (s : State) (r : Reg) (imm : Byte) (i : Instr) (v : Byte), s.mem.wf = true →
    (i, v) ∈ [(Instr.push r, s.reg r), (.pshi imm, imm)] →
    let next := s.pc + BitVec.ofNat 16 i.bytes
    let sp := s.slot .sp
    let a := joinBytes 0xFF sp
    ∃ t : State, exec i s = .next t ∧ SlotEnded i t ∧ t.slot .sp = sp - 1 ∧ t.t = sp - 1 ∧
      (a ≠ slotAddr .sp → t.readMem a = v) ∧
      t.slot .pl = (if a = slotAddr .pl then v else loByte next) ∧
      t.slot .ph = (if a = slotAddr .ph then v else hiByte next) ∧
      t.pc = joinBytes (t.slot .ph) (t.slot .pl) ∧ t.flags = s.flags ∧
      MemoryKept s t [slotAddr .pl, slotAddr .ph, a, slotAddr .sp] ∧ UartKept s t

/-- `POP` and `RETL`: `SP` + 1, then the byte at `{0xFF, SP}` to a register or to `W`; a pop from `SP`, `PL` or `PH` reads
what the instruction has just written there (`46_stack_and_control.md` R179, R181, R187). -/
def Obligations.PopRaisesSpAndLoads : Prop :=
  ∀ (s : State) (r : Reg) (i : Instr) (x : Slot), s.mem.wf = true → (i, x) ∈ [(Instr.pop r, regSlot r), (.retl, .w)] →
    let next := s.pc + 1
    let sp := s.slot .sp + 1
    let v := popRead (s.readSaved next) sp (joinBytes 0xFF sp)
    ∃ t : State, exec i s = .next t ∧ SlotEnded i t ∧ t.pc = next ∧ t.slot .sp = sp ∧ t.slot x = v ∧ t.t = v ∧
      PcSaved t next ∧ t.flags = s.flags ∧
      MemoryKept s t [slotAddr .pl, slotAddr .ph, slotAddr .sp, slotAddr x] ∧ UartKept s t

/-- `CALJ`: pushes its fourth byte and jumps to `{PH, W}`, where it has put the target; each operand byte is read
after the writes that precede its cycle (`46_stack_and_control.md` R186, `20_memory.md` R52, `70_reset_and_hazards.md`
R249). Log 7, log 17. -/
def Obligations.CallPushesAndJumps : Prop :=
  ∀ (s : State) (lo hi imm : Byte), s.mem.wf = true → s.readMem (s.pc + 2) = hi → s.readMem (s.pc + 3) = imm →
    let hi' := if s.pc + 2 = slotAddr .w then lo else hi
    let v := if s.pc + 3 = slotAddr .w then lo else if s.pc + 3 = slotAddr .ph then hi' else imm
    let sp := s.slot .sp
    let a := joinBytes 0xFF sp
    ∃ t : State, exec (.calj lo hi imm) s = .next t ∧ SlotEnded (.calj lo hi imm) t ∧ t.slot .sp = sp - 1 ∧
      t.t = sp - 1 ∧ (a ≠ slotAddr .sp → t.readMem a = v) ∧
      t.slot .w = (if a = slotAddr .w then v else lo) ∧ t.slot .ph = (if a = slotAddr .ph then v else hi') ∧
      t.pc = joinBytes (t.slot .ph) (t.slot .w) ∧ t.flags = s.flags ∧
      MemoryKept s t [slotAddr .w, slotAddr .ph, a, slotAddr .sp] ∧ UartKept s t

/-- `RETH`: pops the high byte and jumps to it and `W` (`46_stack_and_control.md` R179, R188). -/
def Obligations.ReturnJumps : Prop :=
  ∀ s : State, s.mem.wf = true →
    let sp := s.slot .sp + 1
    let v := popRead s.readMem sp (joinBytes 0xFF sp)
    ∃ t : State, exec .reth s = .next t ∧ SlotEnded .reth t ∧ t.pc = joinBytes v (s.slot .w) ∧ t.slot .sp = sp ∧
      t.t = sp ∧ t.flags = s.flags ∧ MemoryKept s t [slotAddr .sp] ∧ UartKept s t

/-- The call protocol: `PSHI hi(R)` at `m`, `CALJ lo(t), hi(t), lo(R)` at `m` + 2 with `R` = `m` + 6, and later
`RETL`, `RETH` from a state that has the stack bytes and `SP` of the call: the pc goes to `t` and back to `R`, and
`SP` is restored (`46_stack_and_control.md` R193). The stack bytes and the return stay clear of the register-file
page. The spec marks R193 as its own inference: "[derived: from rules R182, R186, R187, R188]". -/
def Obligations.CallThenReturn : Prop :=
  ∀ (s s1 s2 : State) (lo hi : Byte),
    let ret := s.pc + 6
    let sp := s.slot .sp
    s.mem.wf = true → sp.toNat ≤ 0xEF →
    (∀ k ∈ ([0, 1, 2, 3, 4, 5] : List Addr),
      s.pc + k ∉ [slotAddr .pl, slotAddr .ph, slotAddr .sp, slotAddr .w, joinBytes 0xFF sp]) →
    s.readMem (s.pc + 4) = hi → s.readMem (s.pc + 5) = loByte ret →
    exec (.pshi (hiByte ret)) s = .next s1 → exec (.calj lo hi (loByte ret)) s1 = .next s2 →
      s2.pc = joinBytes hi lo ∧ s2.slot .sp = sp - 2 ∧ s2.readMem (joinBytes 0xFF sp) = hiByte ret ∧
      s2.readMem (joinBytes 0xFF (sp - 1)) = loByte ret ∧
      ∀ u u1 u2 : State, u.mem.wf = true → u.slot .sp = sp - 2 → u.readMem (joinBytes 0xFF sp) = hiByte ret →
        u.readMem (joinBytes 0xFF (sp - 1)) = loByte ret →
        exec .retl u = .next u1 → exec .reth u1 = .next u2 → u2.pc = ret ∧ u2.slot .sp = sp

/-- The bit-move protocol: `BMX s, 0x40 | rp << 3 | wp, ~(1 << wp)` then `BMW d` copies bit `rp` of one register to
bit `wp` of another and changes no other bit of it, nor any other general register (`30_encoding.md` R85,
`45_logic_bits_flags.md` R172, R173). The work registers `W`, `PL`, `PH` change, as those rules say. -/
def Obligations.BitMoveCopiesOneBit : Prop :=
  ∀ (s s1 s2 : State) (dst src : Reg) (rp wp : BitVec 3),
    let mask : Byte := ~~~((1 : Byte) <<< wp.toNat)
    s.mem.wf = true → s.readMem (s.pc + 2) = mask →
    s.pc + 2 ∉ [slotAddr .pl, slotAddr .ph, slotAddr .w] →
    exec (.bmx src (0b01#2 ++ rp ++ wp) mask) s = .next s1 → exec (.bmw dst) s1 = .next s2 →
      (∀ k : Nat, k < 8 → (s2.reg dst).getLsbD k =
        if k = wp.toNat then (s.reg src).getLsbD rp.toNat else (s.reg dst).getLsbD k) ∧
      (∀ r : Reg, r ≠ dst → s2.reg r = s.reg r) ∧ s2.flags = s.flags ∧ s2.pc = s.pc + 4

/-! ## Port 3, the UART and the host -/

/-- `OUT 3, r` and `OUTI 3, imm`: the byte goes to `T` and the output latch, and its bit 0 to the transmit line: a
falling edge while idle starts a frame, and eight more writes shift a byte in, least significant bit first
(`47_io_uart.md` R200, R201, R203). Bit counts above 8 are left out: log 9. The bit order and the idle level, which
make the falling edge a start bit: log 15. -/
def Obligations.PortThreeWrite : Prop :=
  ∀ (s : State) (r : Reg) (imm : Byte) (i : Instr) (v : Byte), s.txn.toNat ≤ 8 →
    (i, v) ∈ [(Instr.out .p3 r, s.reg r), (.outi .p3 imm, imm)] →
    ∃ t : State, exec i s = .next t ∧ SlotEnded i t ∧ t.pc = s.pc + BitVec.ofNat 16 i.bytes ∧ t.out = v ∧ t.t = v ∧
      t.flags = s.flags ∧ MemoryKept s t [] ∧ ReceiveKept s t ∧
      (s.txn = 0 → s.out.getLsbD 0 = true → v.getLsbD 0 = false →
        t.txn = 1 ∧ t.txb = 0x00 ∧ t.txrdy = s.txrdy ∧ t.txd = s.txd) ∧
      (s.txn = 0 → s.out.getLsbD 0 = false ∨ v.getLsbD 0 = true →
        t.txn = 0 ∧ t.txb = s.txb ∧ t.txrdy = s.txrdy ∧ t.txd = s.txd) ∧
      (s.txn ≠ 0 →
        (∀ k : Nat, k < 8 → t.txb.getLsbD k =
          if k + 1 = s.txn.toNat then v.getLsbD 0 else s.txb.getLsbD k) ∧
        t.txn = (if s.txn = 8 then 0 else s.txn + 1) ∧
        t.txd = (if s.txn = 8 then t.txb else s.txd) ∧ t.txrdy = (if s.txn = 8 then true else s.txrdy))

/-- `IN r, 3`: one poll of the receive line, its value in the register and in `T` (`47_io_uart.md` R199, R202). Bit
counts above 8 are left out: log 9. The bit order and the idle value 1: log 15. -/
def Obligations.PortThreeRead : Prop :=
  ∀ (s : State) (r : Reg), s.mem.wf = true → s.rxn.toNat ≤ 8 →
    ∃ t : State, exec (.inp r .p3) s = .next t ∧ SlotEnded (.inp r .p3) t ∧ t.pc = s.pc + 1 ∧ t.t = t.reg r ∧
      t.flags = s.flags ∧ MemoryKept s t [slotAddr (regSlot r)] ∧ TransmitKept s t ∧ t.rxb = s.rxb ∧
      (s.rxn = 0 → s.rxpend = true → s.out.getLsbD 1 = true →
        t.reg r = 0x00 ∧ t.rxn = 1 ∧ t.rxidle = 0 ∧ t.rxpend = true) ∧
      (s.rxn = 0 → s.rxpend = false ∨ s.out.getLsbD 1 = false →
        t.reg r = 0x01 ∧ t.rxn = 0 ∧ t.rxidle.toNat = min 255 (s.rxidle.toNat + 1) ∧ t.rxpend = s.rxpend) ∧
      (s.rxn ≠ 0 →
        t.reg r = (if s.rxb.getLsbD (s.rxn.toNat - 1) then 0x01 else 0x00) ∧ t.rxidle = s.rxidle ∧
        t.rxn = (if s.rxn = 8 then 0 else s.rxn + 1) ∧ t.rxpend = (if s.rxn = 8 then false else s.rxpend))

/-- A transmitted frame: with the line idle, a write of bit 0 = 0 and eight writes whose bits 0 spell a byte, least
significant bit first, deliver that byte to `TXD` (`47_io_uart.md` R200). The bit order: log 15. -/
def Obligations.TransmitFrameDeliversTheByte : Prop :=
  ∀ (s : State) (start : Byte) (w : Nat → Byte) (b : Byte),
    s.txn = 0 → s.out.getLsbD 0 = true → start.getLsbD 0 = false →
    (∀ k : Nat, k < 8 → (w k).getLsbD 0 = b.getLsbD k) →
    let t := (List.range 8).foldl (fun u k => u.port3Write (w k)) (s.port3Write start)
    t.txd = b ∧ t.txrdy = true ∧ t.txn = 0 ∧ t.out = w 7 ∧ hostDelivered t = some b ∧ ReceiveKept s t

/-- A received frame: after `host_fill(b)` with the line idle and `OUT[1]` = 1, nine polls read the start bit and the
eight bits of `b`, least significant bit first, and the byte is no longer pending (`47_io_uart.md` R199, R205). The
bit order: log 15. -/
def Obligations.ReceiveFrameReadsTheByte : Prop :=
  ∀ (s s0 : State) (b : Byte),
    s.rxn = 0 → s.out.getLsbD 1 = true → hostFill b s = .next s0 →
    let polled := fun n : Nat => (List.range n).foldl (fun u _ => u.port3Polled) s0
    s0.port3Value = 0x00 ∧
    (∀ k : Nat, k < 8 → (polled (k + 1)).port3Value = if b.getLsbD k then 0x01 else 0x00) ∧
    (polled 9).rxn = 0 ∧ (polled 9).rxpend = false ∧ (polled 9).rxidle = 0 ∧ (polled 9).port3Value = 0x01 ∧
    TransmitKept s (polled 9)

/-- `47_io_uart.md` R205: what the host sees and may do, and that it touches nothing of the machine but its latches. That the
model answers a forbidden fill with a refusal by name: log 14. -/
def Obligations.HostTouchesTheLatchesOnly : Prop :=
  ∀ (s : State) (b : Byte),
    s.hostView = ⟨s.rxb, s.rxpend, s.txrdy, s.txd, s.rxidle⟩ ∧
    (s.rxpend = true → hostAct (some (.fill b)) s = .refused .hostFillWhilePending) ∧
    (s.rxpend = false → hostAct (some (.fill b)) s = .next { s with rxb := b, rxpend := true }) ∧
    hostAct (some .drain) s = .next { s with txrdy := false } ∧
    (s.txrdy = true → hostDelivered s = some s.txd) ∧ (s.txrdy = false → hostDelivered s = none) ∧
    hostAct none s = .next s

/-! ## The machine as a whole -/

/-- The invariant of slot boundaries holds at reset. -/
def Obligations.ResetMeetsTheInvariant : Prop := State.reset.boundaryInv

/-- Every step keeps the invariant of slot boundaries: memory in canonical form, `STEP` = 0, routing off, the UART bit
counts within 0 to 8, and `IR` never loaded in the power-on regime (`10_state.md` R10, R14, R20; `41_cycle.md` R118).
The case of `STF` in the power-on regime: log 12, log 16. -/
def Obligations.StepKeepsTheInvariant : Prop :=
  ∀ s t : State, s.boundaryInv → step s = .next t → t.boundaryInv

/-- The instructions that may write `FLAGS` are those of `70_reset_and_hazards.md` R246 and no other; all but `STF`
leave `I` = 1. The spec marks R246 as its own inference, "[derived: from the instruction rules of files 42–47]", and
its decision D20. -/
def Obligations.FlagWritersAreListed : Prop :=
  ∀ (i : Instr) (s t : State), exec i s = .next t →
    (i.writesFlags = false → t.flags = s.flags) ∧ (i.writesFlags = true → i.isStf = false → flagI t.flags = true)

/-- In the normal regime only `STF` can leave it: after any other instruction the machine stands at the start of a
slot of the normal regime again, with `BSEL` as the tables leave it (`10_state.md` R14; `60_exceptions.md` R219). Why
routing off, not `BSEL` = 0: log 16. -/
def Obligations.NormalRegimeIsKept : Prop :=
  ∀ s t : State, s.atFetch = true → s.fetchInstr.isStf = false → step s = .next t → t.atFetch = true

/-- An instruction faults exactly when it accesses a port that does not exist, and then with `UnsupportedPort`; no
instruction is refused. The access comes in microstep 3 of `OUT`, in microstep 2 of `IN` and `OUTI`: the cycles before it
stand, with the opcode in `IR`, the one-hot port code in `BSEL` and the pc past the instruction, and the next cycle faults
(`60_exceptions.md` R211, R215; `47_io_uart.md` R196, R201 to R203). -/
def Obligations.OnlyMissingPortsFault : Prop :=
  (∀ (i : Instr) (s : State),
    (i.usesMissingPort = true → exec i s = .fault .unsupportedPort) ∧
    (i.usesMissingPort = false → ∃ t : State, exec i s = .next t)) ∧
  ∀ (img : BootImage) (s : State) (q : Port) (r : Reg) (imm v : Byte) (n : Nat),
    s.atFetch = true → q ≠ .p3 →
    (s.fetchInstr, n, v) ∈ [(Instr.out q r, 3, s.reg r), (.inp r q, 2, s.t), (.outi q imm, 2, imm)] →
    (∃ t : State, runCyclesWithHost img emptyHost n 0 s = .next t ∧ t.ir = s.fetchInstr.opcode ∧
      t.ustep = BitVec.ofNat 4 n ∧ t.bsel = portCode q ∧ t.t = v ∧
      t.pc = s.pc + BitVec.ofNat 16 s.fetchInstr.bytes ∧ t.flags = s.flags ∧ MemoryKept s t [] ∧ UartKept s t) ∧
    runCyclesWithHost img emptyHost (n + 1) 0 s = .fault .unsupportedPort
end

