-- ==== Sys2Proof/Laws/Memory.lean ====
section
/-! SUPPORT. Memory: a read after a write, and the canonical form. -/

namespace Sys2Proof.Machine

theorem readCells_nil (a : Nat) : readCells [] a = 0 := rfl

theorem readCells_of_canonicalFrom_lt {cells : List Host.Cell} :
    ∀ {least a : Nat}, canonicalFrom least cells = true → a < least → readCells cells a = 0 := by
  induction cells with
  | nil => intros; rfl
  | cons c rest ih =>
    obtain ⟨k, x⟩ := c
    intro least a h ha
    simp only [canonicalFrom, Bool.and_eq_true, decide_eq_true_eq] at h
    obtain ⟨⟨⟨h1, -⟩, -⟩, h4⟩ := h
    have hne : k ≠ a := by omega
    simp only [readCells, hne, if_false]
    exact ih h4 (by omega)

/-- Reading after a write to a list of cells, canonical or not, at another address. -/
theorem readCells_writeCells_ne {b : Nat} (cells : List Host.Cell) (a : Nat) (v : Byte) (h : b ≠ a) :
    readCells (writeCells cells a v) b = readCells cells b := by
  induction cells with
  | nil =>
    by_cases hv : v = 0#8 <;> simp [writeCells, readCells, hv, Ne.symm h]
  | cons c rest ih =>
    obtain ⟨k, x⟩ := c
    by_cases h1 : a < k
    · by_cases hv : v = 0#8 <;> simp [writeCells, readCells, h1, hv, Ne.symm h]
    · by_cases h2 : a = k
      · subst h2
        by_cases hv : v = 0#8 <;> simp [writeCells, readCells, hv, Ne.symm h]
      · simp only [writeCells, h1, h2, if_false, readCells, ih]

/-- Reading back what was written, for cells in canonical form. -/
theorem readCells_writeCells_self {cells : List Host.Cell} (v : Byte) :
    ∀ {least a : Nat}, canonicalFrom least cells = true → readCells (writeCells cells a v) a = v := by
  induction cells with
  | nil =>
    intro least a _
    by_cases hv : v = 0#8 <;> simp [writeCells, readCells, hv]
  | cons c rest ih =>
    obtain ⟨k, x⟩ := c
    intro least a h
    have hc := h
    simp only [canonicalFrom, Bool.and_eq_true, decide_eq_true_eq] at h
    obtain ⟨-, h4⟩ := h
    by_cases h1 : a < k
    · by_cases hv : v = 0#8
      · have hk : k ≠ a := by omega
        subst hv
        rw [show writeCells ((k, x) :: rest) a 0#8 = (k, x) :: rest by simp [writeCells, h1]]
        simp only [readCells, hk, if_false]
        exact readCells_of_canonicalFrom_lt h4 (by omega)
      · simp [writeCells, readCells, h1, hv]
    · by_cases h2 : a = k
      · subst h2
        by_cases hv : v = 0#8
        · subst hv
          rw [show writeCells ((a, x) :: rest) a 0#8 = rest by simp [writeCells]]
          exact readCells_of_canonicalFrom_lt h4 (by omega)
        · simp [writeCells, readCells, hv]
      · have hk : k ≠ a := fun e => h2 e.symm
        simp only [writeCells, h1, h2, if_false, readCells, hk]
        exact ih h4

theorem canonicalFrom_mono {cells : List Host.Cell} {m n : Nat} (hmn : m ≤ n)
    (h : canonicalFrom n cells = true) : canonicalFrom m cells = true := by
  cases cells with
  | nil => rfl
  | cons c rest =>
    obtain ⟨k, x⟩ := c
    simp only [canonicalFrom, Bool.and_eq_true, decide_eq_true_eq] at h ⊢
    exact ⟨⟨⟨by omega, h.1.1.2⟩, h.1.2⟩, h.2⟩

theorem canonicalFrom_writeCells {cells : List Host.Cell} (v : Byte) :
    ∀ {least a : Nat}, canonicalFrom least cells = true → least ≤ a → a < 65536 →
      canonicalFrom least (writeCells cells a v) = true := by
  induction cells with
  | nil =>
    intro least a _ h1 h2
    by_cases hv : v = 0#8 <;> simp [writeCells, canonicalFrom, hv, h1, h2]
  | cons c rest ih =>
    obtain ⟨k, x⟩ := c
    intro least a h h1 h2
    have hc := h
    simp only [canonicalFrom, Bool.and_eq_true, decide_eq_true_eq] at h
    obtain ⟨⟨⟨hk1, hk2⟩, hx⟩, h4⟩ := h
    by_cases hak : a < k
    · by_cases hv : v = 0#8
      · simpa [writeCells, hak, hv] using hc
      · have : a + 1 ≤ k := hak
        have hx' : ¬x = 0#8 := hx
        simp [writeCells, canonicalFrom, hak, hv, h1, h2, hk2, hx', h4, this]
    · by_cases he : a = k
      · subst he
        by_cases hv : v = 0#8
        · subst hv
          rw [show writeCells ((a, x) :: rest) a 0#8 = rest by simp [writeCells]]
          exact canonicalFrom_mono (by omega) h4
        · simp [writeCells, canonicalFrom, hv, h1, h2, h4]
      · simp only [writeCells, hak, he, if_false, canonicalFrom, Bool.and_eq_true, decide_eq_true_eq]
        exact ⟨⟨⟨hk1, hk2⟩, hx⟩, ih h4 (by omega) h2⟩

/-- Every write keeps the canonical form. -/
theorem Memory.wf_write {m : Memory} (a : Addr) (v : Byte) (h : m.wf = true) : (m.write a v).wf = true :=
  canonicalFrom_writeCells v h (Nat.zero_le _) a.isLt

/-- A read at another address is not changed by a write (`20_memory.md` R42). -/
theorem Memory.read_write_ne (m : Memory) {a b : Addr} (v : Byte) (h : b ≠ a) : (m.write a v).read b = m.read b :=
  readCells_writeCells_ne _ _ _ (fun e => h (BitVec.eq_of_toNat_eq e))

/-- A read at the address written gives the byte written (`20_memory.md` R42). -/
theorem Memory.read_write_self {m : Memory} (a : Addr) (v : Byte) (h : m.wf = true) : (m.write a v).read a = v :=
  readCells_writeCells_self v h

/-- Both laws at once. -/
theorem Memory.read_write {m : Memory} (a b : Addr) (v : Byte) (h : m.wf = true) :
    (m.write a v).read b = if b = a then v else m.read b := by
  by_cases e : b = a
  · subst e; simp [Memory.read_write_self b v h]
  · simp [e, Memory.read_write_ne m v e]

/-- The memory of the reset state is in canonical form. -/
theorem reset_mem_wf : State.reset.mem.wf = true := rfl

theorem State.readMem_reset (a : Addr) : State.reset.readMem a = 0 := rfl

end Sys2Proof.Machine
end

