-- ==== Sys2Proof/Laws/State.lean ====
section
/-! SUPPORT. What each update of the state record does to each field: one lemma per field per update, true by `rfl`. -/

namespace Sys2Proof.Machine

variable (s : State)

/-! ## `State.writeMem` -/

@[simp] theorem State.writeMem_ir (a : Addr) (v : Byte) : (s.writeMem a v).ir = s.ir := rfl
@[simp] theorem State.writeMem_ustep (a : Addr) (v : Byte) : (s.writeMem a v).ustep = s.ustep := rfl
@[simp] theorem State.writeMem_flags (a : Addr) (v : Byte) : (s.writeMem a v).flags = s.flags := rfl
@[simp] theorem State.writeMem_bsel (a : Addr) (v : Byte) : (s.writeMem a v).bsel = s.bsel := rfl
@[simp] theorem State.writeMem_t (a : Addr) (v : Byte) : (s.writeMem a v).t = s.t := rfl
@[simp] theorem State.writeMem_al (a : Addr) (v : Byte) : (s.writeMem a v).al = s.al := rfl
@[simp] theorem State.writeMem_ah (a : Addr) (v : Byte) : (s.writeMem a v).ah = s.ah := rfl
@[simp] theorem State.writeMem_mem (a : Addr) (v : Byte) : (s.writeMem a v).mem = s.mem.write a v := rfl
@[simp] theorem State.writeMem_out (a : Addr) (v : Byte) : (s.writeMem a v).out = s.out := rfl
@[simp] theorem State.writeMem_txb (a : Addr) (v : Byte) : (s.writeMem a v).txb = s.txb := rfl
@[simp] theorem State.writeMem_txn (a : Addr) (v : Byte) : (s.writeMem a v).txn = s.txn := rfl
@[simp] theorem State.writeMem_txrdy (a : Addr) (v : Byte) : (s.writeMem a v).txrdy = s.txrdy := rfl
@[simp] theorem State.writeMem_txd (a : Addr) (v : Byte) : (s.writeMem a v).txd = s.txd := rfl
@[simp] theorem State.writeMem_rxb (a : Addr) (v : Byte) : (s.writeMem a v).rxb = s.rxb := rfl
@[simp] theorem State.writeMem_rxn (a : Addr) (v : Byte) : (s.writeMem a v).rxn = s.rxn := rfl
@[simp] theorem State.writeMem_rxidle (a : Addr) (v : Byte) : (s.writeMem a v).rxidle = s.rxidle := rfl
@[simp] theorem State.writeMem_rxpend (a : Addr) (v : Byte) : (s.writeMem a v).rxpend = s.rxpend := rfl

/-! ## `State.setSlot` -/

@[simp] theorem State.setSlot_ir (x : Slot) (v : Byte) : (s.setSlot x v).ir = s.ir := rfl
@[simp] theorem State.setSlot_ustep (x : Slot) (v : Byte) : (s.setSlot x v).ustep = s.ustep := rfl
@[simp] theorem State.setSlot_flags (x : Slot) (v : Byte) : (s.setSlot x v).flags = s.flags := rfl
@[simp] theorem State.setSlot_bsel (x : Slot) (v : Byte) : (s.setSlot x v).bsel = s.bsel := rfl
@[simp] theorem State.setSlot_t (x : Slot) (v : Byte) : (s.setSlot x v).t = s.t := rfl
@[simp] theorem State.setSlot_al (x : Slot) (v : Byte) : (s.setSlot x v).al = s.al := rfl
@[simp] theorem State.setSlot_ah (x : Slot) (v : Byte) : (s.setSlot x v).ah = s.ah := rfl
@[simp] theorem State.setSlot_mem (x : Slot) (v : Byte) : (s.setSlot x v).mem = s.mem.write (slotAddr x) v := rfl
@[simp] theorem State.setSlot_out (x : Slot) (v : Byte) : (s.setSlot x v).out = s.out := rfl
@[simp] theorem State.setSlot_txb (x : Slot) (v : Byte) : (s.setSlot x v).txb = s.txb := rfl
@[simp] theorem State.setSlot_txn (x : Slot) (v : Byte) : (s.setSlot x v).txn = s.txn := rfl
@[simp] theorem State.setSlot_txrdy (x : Slot) (v : Byte) : (s.setSlot x v).txrdy = s.txrdy := rfl
@[simp] theorem State.setSlot_txd (x : Slot) (v : Byte) : (s.setSlot x v).txd = s.txd := rfl
@[simp] theorem State.setSlot_rxb (x : Slot) (v : Byte) : (s.setSlot x v).rxb = s.rxb := rfl
@[simp] theorem State.setSlot_rxn (x : Slot) (v : Byte) : (s.setSlot x v).rxn = s.rxn := rfl
@[simp] theorem State.setSlot_rxidle (x : Slot) (v : Byte) : (s.setSlot x v).rxidle = s.rxidle := rfl
@[simp] theorem State.setSlot_rxpend (x : Slot) (v : Byte) : (s.setSlot x v).rxpend = s.rxpend := rfl

/-! ## `State.setReg` -/

@[simp] theorem State.setReg_ir (r : Reg) (v : Byte) : (s.setReg r v).ir = s.ir := rfl
@[simp] theorem State.setReg_ustep (r : Reg) (v : Byte) : (s.setReg r v).ustep = s.ustep := rfl
@[simp] theorem State.setReg_flags (r : Reg) (v : Byte) : (s.setReg r v).flags = s.flags := rfl
@[simp] theorem State.setReg_bsel (r : Reg) (v : Byte) : (s.setReg r v).bsel = s.bsel := rfl
@[simp] theorem State.setReg_t (r : Reg) (v : Byte) : (s.setReg r v).t = s.t := rfl
@[simp] theorem State.setReg_al (r : Reg) (v : Byte) : (s.setReg r v).al = s.al := rfl
@[simp] theorem State.setReg_ah (r : Reg) (v : Byte) : (s.setReg r v).ah = s.ah := rfl
@[simp] theorem State.setReg_mem (r : Reg) (v : Byte) : (s.setReg r v).mem = s.mem.write (slotAddr (regSlot r)) v := rfl
@[simp] theorem State.setReg_out (r : Reg) (v : Byte) : (s.setReg r v).out = s.out := rfl
@[simp] theorem State.setReg_txb (r : Reg) (v : Byte) : (s.setReg r v).txb = s.txb := rfl
@[simp] theorem State.setReg_txn (r : Reg) (v : Byte) : (s.setReg r v).txn = s.txn := rfl
@[simp] theorem State.setReg_txrdy (r : Reg) (v : Byte) : (s.setReg r v).txrdy = s.txrdy := rfl
@[simp] theorem State.setReg_txd (r : Reg) (v : Byte) : (s.setReg r v).txd = s.txd := rfl
@[simp] theorem State.setReg_rxb (r : Reg) (v : Byte) : (s.setReg r v).rxb = s.rxb := rfl
@[simp] theorem State.setReg_rxn (r : Reg) (v : Byte) : (s.setReg r v).rxn = s.rxn := rfl
@[simp] theorem State.setReg_rxidle (r : Reg) (v : Byte) : (s.setReg r v).rxidle = s.rxidle := rfl
@[simp] theorem State.setReg_rxpend (r : Reg) (v : Byte) : (s.setReg r v).rxpend = s.rxpend := rfl

/-! ## `State.setT` -/

@[simp] theorem State.setT_ir (v : Byte) : (s.setT v).ir = s.ir := rfl
@[simp] theorem State.setT_ustep (v : Byte) : (s.setT v).ustep = s.ustep := rfl
@[simp] theorem State.setT_flags (v : Byte) : (s.setT v).flags = s.flags := rfl
@[simp] theorem State.setT_bsel (v : Byte) : (s.setT v).bsel = s.bsel := rfl
@[simp] theorem State.setT_t (v : Byte) : (s.setT v).t = v := rfl
@[simp] theorem State.setT_al (v : Byte) : (s.setT v).al = s.al := rfl
@[simp] theorem State.setT_ah (v : Byte) : (s.setT v).ah = s.ah := rfl
@[simp] theorem State.setT_mem (v : Byte) : (s.setT v).mem = s.mem := rfl
@[simp] theorem State.setT_out (v : Byte) : (s.setT v).out = s.out := rfl
@[simp] theorem State.setT_txb (v : Byte) : (s.setT v).txb = s.txb := rfl
@[simp] theorem State.setT_txn (v : Byte) : (s.setT v).txn = s.txn := rfl
@[simp] theorem State.setT_txrdy (v : Byte) : (s.setT v).txrdy = s.txrdy := rfl
@[simp] theorem State.setT_txd (v : Byte) : (s.setT v).txd = s.txd := rfl
@[simp] theorem State.setT_rxb (v : Byte) : (s.setT v).rxb = s.rxb := rfl
@[simp] theorem State.setT_rxn (v : Byte) : (s.setT v).rxn = s.rxn := rfl
@[simp] theorem State.setT_rxidle (v : Byte) : (s.setT v).rxidle = s.rxidle := rfl
@[simp] theorem State.setT_rxpend (v : Byte) : (s.setT v).rxpend = s.rxpend := rfl

/-! ## `State.setFlags` -/

@[simp] theorem State.setFlags_ir (f : Nibble) : (s.setFlags f).ir = s.ir := rfl
@[simp] theorem State.setFlags_ustep (f : Nibble) : (s.setFlags f).ustep = s.ustep := rfl
@[simp] theorem State.setFlags_flags (f : Nibble) : (s.setFlags f).flags = f := rfl
@[simp] theorem State.setFlags_bsel (f : Nibble) : (s.setFlags f).bsel = s.bsel := rfl
@[simp] theorem State.setFlags_t (f : Nibble) : (s.setFlags f).t = s.t := rfl
@[simp] theorem State.setFlags_al (f : Nibble) : (s.setFlags f).al = s.al := rfl
@[simp] theorem State.setFlags_ah (f : Nibble) : (s.setFlags f).ah = s.ah := rfl
@[simp] theorem State.setFlags_mem (f : Nibble) : (s.setFlags f).mem = s.mem := rfl
@[simp] theorem State.setFlags_out (f : Nibble) : (s.setFlags f).out = s.out := rfl
@[simp] theorem State.setFlags_txb (f : Nibble) : (s.setFlags f).txb = s.txb := rfl
@[simp] theorem State.setFlags_txn (f : Nibble) : (s.setFlags f).txn = s.txn := rfl
@[simp] theorem State.setFlags_txrdy (f : Nibble) : (s.setFlags f).txrdy = s.txrdy := rfl
@[simp] theorem State.setFlags_txd (f : Nibble) : (s.setFlags f).txd = s.txd := rfl
@[simp] theorem State.setFlags_rxb (f : Nibble) : (s.setFlags f).rxb = s.rxb := rfl
@[simp] theorem State.setFlags_rxn (f : Nibble) : (s.setFlags f).rxn = s.rxn := rfl
@[simp] theorem State.setFlags_rxidle (f : Nibble) : (s.setFlags f).rxidle = s.rxidle := rfl
@[simp] theorem State.setFlags_rxpend (f : Nibble) : (s.setFlags f).rxpend = s.rxpend := rfl

/-! ## `State.setPc` -/

@[simp] theorem State.setPc_ir (hi lo : Byte) : (s.setPc hi lo).ir = s.ir := rfl
@[simp] theorem State.setPc_ustep (hi lo : Byte) : (s.setPc hi lo).ustep = s.ustep := rfl
@[simp] theorem State.setPc_flags (hi lo : Byte) : (s.setPc hi lo).flags = s.flags := rfl
@[simp] theorem State.setPc_bsel (hi lo : Byte) : (s.setPc hi lo).bsel = s.bsel := rfl
@[simp] theorem State.setPc_t (hi lo : Byte) : (s.setPc hi lo).t = s.t := rfl
@[simp] theorem State.setPc_al (hi lo : Byte) : (s.setPc hi lo).al = lo := rfl
@[simp] theorem State.setPc_ah (hi lo : Byte) : (s.setPc hi lo).ah = hi := rfl
@[simp] theorem State.setPc_mem (hi lo : Byte) : (s.setPc hi lo).mem = s.mem := rfl
@[simp] theorem State.setPc_out (hi lo : Byte) : (s.setPc hi lo).out = s.out := rfl
@[simp] theorem State.setPc_txb (hi lo : Byte) : (s.setPc hi lo).txb = s.txb := rfl
@[simp] theorem State.setPc_txn (hi lo : Byte) : (s.setPc hi lo).txn = s.txn := rfl
@[simp] theorem State.setPc_txrdy (hi lo : Byte) : (s.setPc hi lo).txrdy = s.txrdy := rfl
@[simp] theorem State.setPc_txd (hi lo : Byte) : (s.setPc hi lo).txd = s.txd := rfl
@[simp] theorem State.setPc_rxb (hi lo : Byte) : (s.setPc hi lo).rxb = s.rxb := rfl
@[simp] theorem State.setPc_rxn (hi lo : Byte) : (s.setPc hi lo).rxn = s.rxn := rfl
@[simp] theorem State.setPc_rxidle (hi lo : Byte) : (s.setPc hi lo).rxidle = s.rxidle := rfl
@[simp] theorem State.setPc_rxpend (hi lo : Byte) : (s.setPc hi lo).rxpend = s.rxpend := rfl

/-! ## `State.incPc` -/

@[simp] theorem State.incPc_ir : (s.incPc).ir = s.ir := rfl
@[simp] theorem State.incPc_ustep : (s.incPc).ustep = s.ustep := rfl
@[simp] theorem State.incPc_flags : (s.incPc).flags = s.flags := rfl
@[simp] theorem State.incPc_bsel : (s.incPc).bsel = s.bsel := rfl
@[simp] theorem State.incPc_t : (s.incPc).t = s.t := rfl
@[simp] theorem State.incPc_al : (s.incPc).al = s.al + 1 := rfl
@[simp] theorem State.incPc_ah : (s.incPc).ah = if s.al = 0xFF then s.ah + 1 else s.ah := rfl
@[simp] theorem State.incPc_mem : (s.incPc).mem = s.mem := rfl
@[simp] theorem State.incPc_out : (s.incPc).out = s.out := rfl
@[simp] theorem State.incPc_txb : (s.incPc).txb = s.txb := rfl
@[simp] theorem State.incPc_txn : (s.incPc).txn = s.txn := rfl
@[simp] theorem State.incPc_txrdy : (s.incPc).txrdy = s.txrdy := rfl
@[simp] theorem State.incPc_txd : (s.incPc).txd = s.txd := rfl
@[simp] theorem State.incPc_rxb : (s.incPc).rxb = s.rxb := rfl
@[simp] theorem State.incPc_rxn : (s.incPc).rxn = s.rxn := rfl
@[simp] theorem State.incPc_rxidle : (s.incPc).rxidle = s.rxidle := rfl
@[simp] theorem State.incPc_rxpend : (s.incPc).rxpend = s.rxpend := rfl

/-! ## `State.fetched` -/

@[simp] theorem State.fetched_ir (i : Instr) : (s.fetched i).ir = i.opcode := rfl
@[simp] theorem State.fetched_ustep (i : Instr) : (s.fetched i).ustep = s.ustep := rfl
@[simp] theorem State.fetched_flags (i : Instr) : (s.fetched i).flags = s.flags := rfl
@[simp] theorem State.fetched_bsel (i : Instr) : (s.fetched i).bsel = s.bsel := rfl
@[simp] theorem State.fetched_t (i : Instr) : (s.fetched i).t = s.t := rfl
@[simp] theorem State.fetched_al (i : Instr) : (s.fetched i).al = s.al + 1 := rfl
@[simp] theorem State.fetched_ah (i : Instr) : (s.fetched i).ah = if s.al = 0xFF then s.ah + 1 else s.ah := rfl
@[simp] theorem State.fetched_mem (i : Instr) : (s.fetched i).mem = s.mem := rfl
@[simp] theorem State.fetched_out (i : Instr) : (s.fetched i).out = s.out := rfl
@[simp] theorem State.fetched_txb (i : Instr) : (s.fetched i).txb = s.txb := rfl
@[simp] theorem State.fetched_txn (i : Instr) : (s.fetched i).txn = s.txn := rfl
@[simp] theorem State.fetched_txrdy (i : Instr) : (s.fetched i).txrdy = s.txrdy := rfl
@[simp] theorem State.fetched_txd (i : Instr) : (s.fetched i).txd = s.txd := rfl
@[simp] theorem State.fetched_rxb (i : Instr) : (s.fetched i).rxb = s.rxb := rfl
@[simp] theorem State.fetched_rxn (i : Instr) : (s.fetched i).rxn = s.rxn := rfl
@[simp] theorem State.fetched_rxidle (i : Instr) : (s.fetched i).rxidle = s.rxidle := rfl
@[simp] theorem State.fetched_rxpend (i : Instr) : (s.fetched i).rxpend = s.rxpend := rfl

/-! ## `State.savePc` -/

@[simp] theorem State.savePc_ir : (s.savePc).ir = s.ir := rfl
@[simp] theorem State.savePc_ustep : (s.savePc).ustep = s.ustep := rfl
@[simp] theorem State.savePc_flags : (s.savePc).flags = s.flags := rfl
@[simp] theorem State.savePc_bsel : (s.savePc).bsel = s.bsel := rfl
@[simp] theorem State.savePc_t : (s.savePc).t = s.t := rfl
@[simp] theorem State.savePc_al : (s.savePc).al = s.al := rfl
@[simp] theorem State.savePc_ah : (s.savePc).ah = s.ah := rfl
@[simp] theorem State.savePc_mem : (s.savePc).mem = (s.mem.write (slotAddr .pl) s.al).write (slotAddr .ph) s.ah := rfl
@[simp] theorem State.savePc_out : (s.savePc).out = s.out := rfl
@[simp] theorem State.savePc_txb : (s.savePc).txb = s.txb := rfl
@[simp] theorem State.savePc_txn : (s.savePc).txn = s.txn := rfl
@[simp] theorem State.savePc_txrdy : (s.savePc).txrdy = s.txrdy := rfl
@[simp] theorem State.savePc_txd : (s.savePc).txd = s.txd := rfl
@[simp] theorem State.savePc_rxb : (s.savePc).rxb = s.rxb := rfl
@[simp] theorem State.savePc_rxn : (s.savePc).rxn = s.rxn := rfl
@[simp] theorem State.savePc_rxidle : (s.savePc).rxidle = s.rxidle := rfl
@[simp] theorem State.savePc_rxpend : (s.savePc).rxpend = s.rxpend := rfl

/-! ## `State.endSlot` -/

@[simp] theorem State.endSlot_ir : (s.endSlot).ir = s.ir := rfl
@[simp] theorem State.endSlot_ustep : (s.endSlot).ustep = 0 := rfl
@[simp] theorem State.endSlot_flags : (s.endSlot).flags = s.flags := rfl
@[simp] theorem State.endSlot_bsel : (s.endSlot).bsel = 0 := rfl
@[simp] theorem State.endSlot_t : (s.endSlot).t = s.t := rfl
@[simp] theorem State.endSlot_al : (s.endSlot).al = s.al := rfl
@[simp] theorem State.endSlot_ah : (s.endSlot).ah = s.ah := rfl
@[simp] theorem State.endSlot_mem : (s.endSlot).mem = s.mem := rfl
@[simp] theorem State.endSlot_out : (s.endSlot).out = s.out := rfl
@[simp] theorem State.endSlot_txb : (s.endSlot).txb = s.txb := rfl
@[simp] theorem State.endSlot_txn : (s.endSlot).txn = s.txn := rfl
@[simp] theorem State.endSlot_txrdy : (s.endSlot).txrdy = s.txrdy := rfl
@[simp] theorem State.endSlot_txd : (s.endSlot).txd = s.txd := rfl
@[simp] theorem State.endSlot_rxb : (s.endSlot).rxb = s.rxb := rfl
@[simp] theorem State.endSlot_rxn : (s.endSlot).rxn = s.rxn := rfl
@[simp] theorem State.endSlot_rxidle : (s.endSlot).rxidle = s.rxidle := rfl
@[simp] theorem State.endSlot_rxpend : (s.endSlot).rxpend = s.rxpend := rfl

/-! ## `State.endPlain` -/

@[simp] theorem State.endPlain_ir : (s.endPlain).ir = s.ir := rfl
@[simp] theorem State.endPlain_ustep : (s.endPlain).ustep = 0 := rfl
@[simp] theorem State.endPlain_flags : (s.endPlain).flags = s.flags := rfl
@[simp] theorem State.endPlain_bsel : (s.endPlain).bsel = s.bsel := rfl
@[simp] theorem State.endPlain_t : (s.endPlain).t = s.t := rfl
@[simp] theorem State.endPlain_al : (s.endPlain).al = s.al := rfl
@[simp] theorem State.endPlain_ah : (s.endPlain).ah = s.ah := rfl
@[simp] theorem State.endPlain_mem : (s.endPlain).mem = s.mem := rfl
@[simp] theorem State.endPlain_out : (s.endPlain).out = s.out := rfl
@[simp] theorem State.endPlain_txb : (s.endPlain).txb = s.txb := rfl
@[simp] theorem State.endPlain_txn : (s.endPlain).txn = s.txn := rfl
@[simp] theorem State.endPlain_txrdy : (s.endPlain).txrdy = s.txrdy := rfl
@[simp] theorem State.endPlain_txd : (s.endPlain).txd = s.txd := rfl
@[simp] theorem State.endPlain_rxb : (s.endPlain).rxb = s.rxb := rfl
@[simp] theorem State.endPlain_rxn : (s.endPlain).rxn = s.rxn := rfl
@[simp] theorem State.endPlain_rxidle : (s.endPlain).rxidle = s.rxidle := rfl
@[simp] theorem State.endPlain_rxpend : (s.endPlain).rxpend = s.rxpend := rfl

/-! ## `State.restorePc` -/

@[simp] theorem State.restorePc_ir : (s.restorePc).ir = s.ir := rfl
@[simp] theorem State.restorePc_ustep : (s.restorePc).ustep = 0 := rfl
@[simp] theorem State.restorePc_flags : (s.restorePc).flags = s.flags := rfl
@[simp] theorem State.restorePc_bsel : (s.restorePc).bsel = 0 := rfl
@[simp] theorem State.restorePc_t : (s.restorePc).t = s.t := rfl
@[simp] theorem State.restorePc_al : (s.restorePc).al = s.slot .pl := rfl
@[simp] theorem State.restorePc_ah : (s.restorePc).ah = s.slot .ph := rfl
@[simp] theorem State.restorePc_mem : (s.restorePc).mem = s.mem := rfl
@[simp] theorem State.restorePc_out : (s.restorePc).out = s.out := rfl
@[simp] theorem State.restorePc_txb : (s.restorePc).txb = s.txb := rfl
@[simp] theorem State.restorePc_txn : (s.restorePc).txn = s.txn := rfl
@[simp] theorem State.restorePc_txrdy : (s.restorePc).txrdy = s.txrdy := rfl
@[simp] theorem State.restorePc_txd : (s.restorePc).txd = s.txd := rfl
@[simp] theorem State.restorePc_rxb : (s.restorePc).rxb = s.rxb := rfl
@[simp] theorem State.restorePc_rxn : (s.restorePc).rxn = s.rxn := rfl
@[simp] theorem State.restorePc_rxidle : (s.restorePc).rxidle = s.rxidle := rfl
@[simp] theorem State.restorePc_rxpend : (s.restorePc).rxpend = s.rxpend := rfl

/-! ## `State.result` -/

@[simp] theorem State.result_ir (x : Slot) (v : Byte) : (s.result x v).ir = s.ir := rfl
@[simp] theorem State.result_ustep (x : Slot) (v : Byte) : (s.result x v).ustep = s.ustep := rfl
@[simp] theorem State.result_flags (x : Slot) (v : Byte) : (s.result x v).flags = s.flags := rfl
@[simp] theorem State.result_bsel (x : Slot) (v : Byte) : (s.result x v).bsel = s.bsel := rfl
@[simp] theorem State.result_t (x : Slot) (v : Byte) : (s.result x v).t = v := rfl
@[simp] theorem State.result_al (x : Slot) (v : Byte) : (s.result x v).al = s.al := rfl
@[simp] theorem State.result_ah (x : Slot) (v : Byte) : (s.result x v).ah = s.ah := rfl
@[simp] theorem State.result_mem (x : Slot) (v : Byte) : (s.result x v).mem = s.mem.write (slotAddr x) v := rfl
@[simp] theorem State.result_out (x : Slot) (v : Byte) : (s.result x v).out = s.out := rfl
@[simp] theorem State.result_txb (x : Slot) (v : Byte) : (s.result x v).txb = s.txb := rfl
@[simp] theorem State.result_txn (x : Slot) (v : Byte) : (s.result x v).txn = s.txn := rfl
@[simp] theorem State.result_txrdy (x : Slot) (v : Byte) : (s.result x v).txrdy = s.txrdy := rfl
@[simp] theorem State.result_txd (x : Slot) (v : Byte) : (s.result x v).txd = s.txd := rfl
@[simp] theorem State.result_rxb (x : Slot) (v : Byte) : (s.result x v).rxb = s.rxb := rfl
@[simp] theorem State.result_rxn (x : Slot) (v : Byte) : (s.result x v).rxn = s.rxn := rfl
@[simp] theorem State.result_rxidle (x : Slot) (v : Byte) : (s.result x v).rxidle = s.rxidle := rfl
@[simp] theorem State.result_rxpend (x : Slot) (v : Byte) : (s.result x v).rxpend = s.rxpend := rfl

/-! ## `State.takeOperand` -/

@[simp] theorem State.takeOperand_ir (v : Byte) : (s.takeOperand v).ir = s.ir := rfl
@[simp] theorem State.takeOperand_ustep (v : Byte) : (s.takeOperand v).ustep = s.ustep := rfl
@[simp] theorem State.takeOperand_flags (v : Byte) : (s.takeOperand v).flags = s.flags := rfl
@[simp] theorem State.takeOperand_bsel (v : Byte) : (s.takeOperand v).bsel = s.bsel := rfl
@[simp] theorem State.takeOperand_t (v : Byte) : (s.takeOperand v).t = v := rfl
@[simp] theorem State.takeOperand_al (v : Byte) : (s.takeOperand v).al = s.al + 1 := rfl
@[simp] theorem State.takeOperand_ah (v : Byte) : (s.takeOperand v).ah = if s.al = 0xFF then s.ah + 1 else s.ah := rfl
@[simp] theorem State.takeOperand_mem (v : Byte) : (s.takeOperand v).mem = s.mem := rfl
@[simp] theorem State.takeOperand_out (v : Byte) : (s.takeOperand v).out = s.out := rfl
@[simp] theorem State.takeOperand_txb (v : Byte) : (s.takeOperand v).txb = s.txb := rfl
@[simp] theorem State.takeOperand_txn (v : Byte) : (s.takeOperand v).txn = s.txn := rfl
@[simp] theorem State.takeOperand_txrdy (v : Byte) : (s.takeOperand v).txrdy = s.txrdy := rfl
@[simp] theorem State.takeOperand_txd (v : Byte) : (s.takeOperand v).txd = s.txd := rfl
@[simp] theorem State.takeOperand_rxb (v : Byte) : (s.takeOperand v).rxb = s.rxb := rfl
@[simp] theorem State.takeOperand_rxn (v : Byte) : (s.takeOperand v).rxn = s.rxn := rfl
@[simp] theorem State.takeOperand_rxidle (v : Byte) : (s.takeOperand v).rxidle = s.rxidle := rfl
@[simp] theorem State.takeOperand_rxpend (v : Byte) : (s.takeOperand v).rxpend = s.rxpend := rfl

/-! ## `State.pushByte` -/

@[simp] theorem State.pushByte_ir (v : Byte) : (s.pushByte v).ir = s.ir := rfl
@[simp] theorem State.pushByte_ustep (v : Byte) : (s.pushByte v).ustep = s.ustep := rfl
@[simp] theorem State.pushByte_flags (v : Byte) : (s.pushByte v).flags = s.flags := rfl
@[simp] theorem State.pushByte_bsel (v : Byte) : (s.pushByte v).bsel = s.bsel := rfl
@[simp] theorem State.pushByte_t (v : Byte) : (s.pushByte v).t = aluAdd 0xFF (s.slot .sp) := rfl
@[simp] theorem State.pushByte_al (v : Byte) : (s.pushByte v).al = s.al := rfl
@[simp] theorem State.pushByte_ah (v : Byte) : (s.pushByte v).ah = s.ah := rfl
@[simp] theorem State.pushByte_mem (v : Byte) : (s.pushByte v).mem = (s.mem.write (stackAddr (s.slot .sp)) v).write (slotAddr .sp) (aluAdd 0xFF (s.slot .sp)) := rfl
@[simp] theorem State.pushByte_out (v : Byte) : (s.pushByte v).out = s.out := rfl
@[simp] theorem State.pushByte_txb (v : Byte) : (s.pushByte v).txb = s.txb := rfl
@[simp] theorem State.pushByte_txn (v : Byte) : (s.pushByte v).txn = s.txn := rfl
@[simp] theorem State.pushByte_txrdy (v : Byte) : (s.pushByte v).txrdy = s.txrdy := rfl
@[simp] theorem State.pushByte_txd (v : Byte) : (s.pushByte v).txd = s.txd := rfl
@[simp] theorem State.pushByte_rxb (v : Byte) : (s.pushByte v).rxb = s.rxb := rfl
@[simp] theorem State.pushByte_rxn (v : Byte) : (s.pushByte v).rxn = s.rxn := rfl
@[simp] theorem State.pushByte_rxidle (v : Byte) : (s.pushByte v).rxidle = s.rxidle := rfl
@[simp] theorem State.pushByte_rxpend (v : Byte) : (s.pushByte v).rxpend = s.rxpend := rfl

/-! ## `State.raiseSp` -/

@[simp] theorem State.raiseSp_ir : (s.raiseSp).ir = s.ir := rfl
@[simp] theorem State.raiseSp_ustep : (s.raiseSp).ustep = s.ustep := rfl
@[simp] theorem State.raiseSp_flags : (s.raiseSp).flags = s.flags := rfl
@[simp] theorem State.raiseSp_bsel : (s.raiseSp).bsel = s.bsel := rfl
@[simp] theorem State.raiseSp_t : (s.raiseSp).t = aluAdd 0x01 (s.slot .sp) := rfl
@[simp] theorem State.raiseSp_al : (s.raiseSp).al = s.al := rfl
@[simp] theorem State.raiseSp_ah : (s.raiseSp).ah = s.ah := rfl
@[simp] theorem State.raiseSp_mem : (s.raiseSp).mem = s.mem.write (slotAddr .sp) (aluAdd 0x01 (s.slot .sp)) := rfl
@[simp] theorem State.raiseSp_out : (s.raiseSp).out = s.out := rfl
@[simp] theorem State.raiseSp_txb : (s.raiseSp).txb = s.txb := rfl
@[simp] theorem State.raiseSp_txn : (s.raiseSp).txn = s.txn := rfl
@[simp] theorem State.raiseSp_txrdy : (s.raiseSp).txrdy = s.txrdy := rfl
@[simp] theorem State.raiseSp_txd : (s.raiseSp).txd = s.txd := rfl
@[simp] theorem State.raiseSp_rxb : (s.raiseSp).rxb = s.rxb := rfl
@[simp] theorem State.raiseSp_rxn : (s.raiseSp).rxn = s.rxn := rfl
@[simp] theorem State.raiseSp_rxidle : (s.raiseSp).rxidle = s.rxidle := rfl
@[simp] theorem State.raiseSp_rxpend : (s.raiseSp).rxpend = s.rxpend := rfl

/-! ## `State.writeBack` -/

@[simp] theorem State.writeBack_ir (p : Pair) (a : Addr) : (s.writeBack p a).ir = s.ir := rfl
@[simp] theorem State.writeBack_ustep (p : Pair) (a : Addr) : (s.writeBack p a).ustep = s.ustep := rfl
@[simp] theorem State.writeBack_flags (p : Pair) (a : Addr) : (s.writeBack p a).flags = s.flags := rfl
@[simp] theorem State.writeBack_bsel (p : Pair) (a : Addr) : (s.writeBack p a).bsel = s.bsel := rfl
@[simp] theorem State.writeBack_t (p : Pair) (a : Addr) : (s.writeBack p a).t = hiByte a := rfl
@[simp] theorem State.writeBack_al (p : Pair) (a : Addr) : (s.writeBack p a).al = s.al := rfl
@[simp] theorem State.writeBack_ah (p : Pair) (a : Addr) : (s.writeBack p a).ah = s.ah := rfl
@[simp] theorem State.writeBack_mem (p : Pair) (a : Addr) : (s.writeBack p a).mem = (s.mem.write (slotAddr (pairLow p)) (loByte a)).write (slotAddr (pairHigh p)) (hiByte a) := rfl
@[simp] theorem State.writeBack_out (p : Pair) (a : Addr) : (s.writeBack p a).out = s.out := rfl
@[simp] theorem State.writeBack_txb (p : Pair) (a : Addr) : (s.writeBack p a).txb = s.txb := rfl
@[simp] theorem State.writeBack_txn (p : Pair) (a : Addr) : (s.writeBack p a).txn = s.txn := rfl
@[simp] theorem State.writeBack_txrdy (p : Pair) (a : Addr) : (s.writeBack p a).txrdy = s.txrdy := rfl
@[simp] theorem State.writeBack_txd (p : Pair) (a : Addr) : (s.writeBack p a).txd = s.txd := rfl
@[simp] theorem State.writeBack_rxb (p : Pair) (a : Addr) : (s.writeBack p a).rxb = s.rxb := rfl
@[simp] theorem State.writeBack_rxn (p : Pair) (a : Addr) : (s.writeBack p a).rxn = s.rxn := rfl
@[simp] theorem State.writeBack_rxidle (p : Pair) (a : Addr) : (s.writeBack p a).rxidle = s.rxidle := rfl
@[simp] theorem State.writeBack_rxpend (p : Pair) (a : Addr) : (s.writeBack p a).rxpend = s.rxpend := rfl

/-! ## `State.arithmetic` -/

@[simp] theorem State.arithmetic_ir (r : Reg) (v : Byte) (f : Nibble) : (s.arithmetic r v f).ir = s.ir := rfl
@[simp] theorem State.arithmetic_ustep (r : Reg) (v : Byte) (f : Nibble) : (s.arithmetic r v f).ustep = 0 := rfl
@[simp] theorem State.arithmetic_flags (r : Reg) (v : Byte) (f : Nibble) : (s.arithmetic r v f).flags = f := rfl
@[simp] theorem State.arithmetic_bsel (r : Reg) (v : Byte) (f : Nibble) : (s.arithmetic r v f).bsel = 0 := rfl
@[simp] theorem State.arithmetic_t (r : Reg) (v : Byte) (f : Nibble) : (s.arithmetic r v f).t = v := rfl
@[simp] theorem State.arithmetic_al (r : Reg) (v : Byte) (f : Nibble) : (s.arithmetic r v f).al = (s.setReg r v).slot .pl := rfl
@[simp] theorem State.arithmetic_ah (r : Reg) (v : Byte) (f : Nibble) : (s.arithmetic r v f).ah = (s.setReg r v).slot .ph := rfl
@[simp] theorem State.arithmetic_mem (r : Reg) (v : Byte) (f : Nibble) : (s.arithmetic r v f).mem = s.mem.write (slotAddr (regSlot r)) v := rfl
@[simp] theorem State.arithmetic_out (r : Reg) (v : Byte) (f : Nibble) : (s.arithmetic r v f).out = s.out := rfl
@[simp] theorem State.arithmetic_txb (r : Reg) (v : Byte) (f : Nibble) : (s.arithmetic r v f).txb = s.txb := rfl
@[simp] theorem State.arithmetic_txn (r : Reg) (v : Byte) (f : Nibble) : (s.arithmetic r v f).txn = s.txn := rfl
@[simp] theorem State.arithmetic_txrdy (r : Reg) (v : Byte) (f : Nibble) : (s.arithmetic r v f).txrdy = s.txrdy := rfl
@[simp] theorem State.arithmetic_txd (r : Reg) (v : Byte) (f : Nibble) : (s.arithmetic r v f).txd = s.txd := rfl
@[simp] theorem State.arithmetic_rxb (r : Reg) (v : Byte) (f : Nibble) : (s.arithmetic r v f).rxb = s.rxb := rfl
@[simp] theorem State.arithmetic_rxn (r : Reg) (v : Byte) (f : Nibble) : (s.arithmetic r v f).rxn = s.rxn := rfl
@[simp] theorem State.arithmetic_rxidle (r : Reg) (v : Byte) (f : Nibble) : (s.arithmetic r v f).rxidle = s.rxidle := rfl
@[simp] theorem State.arithmetic_rxpend (r : Reg) (v : Byte) (f : Nibble) : (s.arithmetic r v f).rxpend = s.rxpend := rfl

end Sys2Proof.Machine
end

