-- ==== Sys2Proof/Laws/Ops.lean ====
section
/-! SUPPORT. What the shared operations do to memory, to the logical registers and to the pc: one lemma per operation, to
be cited in place of its definition. -/

namespace Sys2Proof.Machine

/-! ## Addresses and bytes -/

theorem toNat_joinBytes (hi lo : Byte) : (joinBytes hi lo).toNat = hi.toNat * 256 + lo.toNat := by
  have h := Nat.shiftLeft_add_eq_or_of_lt lo.isLt hi.toNat
  rw [joinBytes, BitVec.toNat_append, ← h, Nat.shiftLeft_eq]

theorem toNat_loByte (a : Addr) : (loByte a).toNat = a.toNat % 256 := by
  simp [loByte, BitVec.extractLsb'_toNat]

theorem toNat_hiByte (a : Addr) : (hiByte a).toNat = a.toNat / 256 := by
  have h := a.isLt
  simp only [hiByte, BitVec.extractLsb'_toNat, Nat.shiftRight_eq_div_pow]
  omega

@[simp] theorem loByte_joinBytes (hi lo : Byte) : loByte (joinBytes hi lo) = lo :=
  BitVec.eq_of_toNat_eq (by rw [toNat_loByte, toNat_joinBytes]; omega)

@[simp] theorem hiByte_joinBytes (hi lo : Byte) : hiByte (joinBytes hi lo) = hi :=
  BitVec.eq_of_toNat_eq (by rw [toNat_hiByte, toNat_joinBytes]; omega)

@[simp] theorem joinBytes_hiByte_loByte (a : Addr) : joinBytes (hiByte a) (loByte a) = a :=
  BitVec.eq_of_toNat_eq (by rw [toNat_joinBytes, toNat_hiByte, toNat_loByte]; omega)

theorem joinBytes_inj {hi lo hi' lo' : Byte} : joinBytes hi lo = joinBytes hi' lo' ↔ hi = hi' ∧ lo = lo' :=
  ⟨fun h => ⟨by simpa using congrArg hiByte h, by simpa using congrArg loByte h⟩, fun ⟨h, h'⟩ => by rw [h, h']⟩

/-- The address increment, as a 16-bit sum (`41_cycle.md` R116). -/
theorem joinBytes_inc (hi lo : Byte) :
    joinBytes (if lo = 0xFF then hi + 1 else hi) (lo + 1) = joinBytes hi lo + 1 := by
  refine BitVec.eq_of_toNat_eq ?_
  have h := hi.isLt
  have h' := lo.isLt
  have h1 : (1 : Byte).toNat = 1 := rfl
  have h2 : (1 : Addr).toNat = 1 := rfl
  have h3 : (0xFF : Byte).toNat = 255 := rfl
  by_cases e : lo = 0xFF
  · simp only [e, if_true, toNat_joinBytes, BitVec.toNat_add, h1, h2, h3]
    omega
  · have e' : lo.toNat ≠ 255 := fun n => e (BitVec.eq_of_toNat_eq n)
    simp only [e, if_false, toNat_joinBytes, BitVec.toNat_add, h1, h2]
    omega

/-- The eight logical registers stand at eight addresses. -/
@[simp] theorem slotAddr_inj {x y : Slot} : slotAddr x = slotAddr y ↔ x = y := by
  cases x <;> cases y <;> decide

@[simp] theorem pairLow_ne_pairHigh (p q : Pair) : pairLow p ≠ pairHigh q := by cases p <;> cases q <;> decide

@[simp] theorem pairHigh_ne_pairLow (p q : Pair) : pairHigh p ≠ pairLow q := by cases p <;> cases q <;> decide

@[simp] theorem regSlot_inj {r q : Reg} : regSlot r = regSlot q ↔ r = q := by cases r <;> cases q <;> decide

/-- A register or pair field names none of `PL`, `PH`, `SP`, `W` (`10_state.md` R13). -/
def Slot.isWork : Slot → Bool
  | .pl | .ph | .sp | .w => true
  | .a | .b | .c | .d => false

@[simp] theorem isWork_regSlot (r : Reg) : (regSlot r).isWork = false := by cases r <;> rfl

@[simp] theorem isWork_pairLow (p : Pair) : (pairLow p).isWork = false := by cases p <;> rfl

@[simp] theorem isWork_pairHigh (p : Pair) : (pairHigh p).isWork = false := by cases p <;> rfl

@[simp] theorem regSlot_ne (r : Reg) : regSlot r ≠ .pl ∧ regSlot r ≠ .ph ∧ regSlot r ≠ .sp ∧ regSlot r ≠ .w := by
  cases r <;> decide

@[simp] theorem pairLow_ne (p : Pair) : pairLow p ≠ .pl ∧ pairLow p ≠ .ph ∧ pairLow p ≠ .sp ∧ pairLow p ≠ .w := by
  cases p <;> decide

@[simp] theorem pairHigh_ne (p : Pair) : pairHigh p ≠ .pl ∧ pairHigh p ≠ .ph ∧ pairHigh p ≠ .sp ∧ pairHigh p ≠ .w := by
  cases p <;> decide

@[simp] theorem ne_regSlot (r : Reg) : .pl ≠ regSlot r ∧ .ph ≠ regSlot r ∧ .sp ≠ regSlot r ∧ .w ≠ regSlot r := by
  cases r <;> decide

@[simp] theorem ne_pairLow (p : Pair) : .pl ≠ pairLow p ∧ .ph ≠ pairLow p ∧ .sp ≠ pairLow p ∧ .w ≠ pairLow p := by
  cases p <;> decide

@[simp] theorem ne_pairHigh (p : Pair) : .pl ≠ pairHigh p ∧ .ph ≠ pairHigh p ∧ .sp ≠ pairHigh p ∧ .w ≠ pairHigh p := by
  cases p <;> decide

theorem ne_of_isWork {x y : Slot} (h : x.isWork ≠ y.isWork) : x ≠ y := fun e => h (by rw [e])

/-! ## Memory writes -/

/-- One byte written, every byte read (`20_memory.md` R42). -/
theorem readMem_writeMem {s : State} (h : s.mem.wf = true) (a b : Addr) (v : Byte) :
    (s.writeMem a v).readMem b = if b = a then v else s.readMem b :=
  Memory.read_write a b v h

/-- A byte that is not written reads as before, in any memory. -/
theorem readMem_writeMem_ne (s : State) {a b : Addr} (v : Byte) (h : b ≠ a) :
    (s.writeMem a v).readMem b = s.readMem b :=
  Memory.read_write_ne s.mem v h

theorem slot_setSlot {s : State} (h : s.mem.wf = true) (x y : Slot) (v : Byte) :
    (s.setSlot x v).slot y = if y = x then v else s.slot y := by
  simp [State.slot, State.setSlot, readMem_writeMem h]

theorem readMem_setSlot {s : State} (h : s.mem.wf = true) (x : Slot) (b : Addr) (v : Byte) :
    (s.setSlot x v).readMem b = if b = slotAddr x then v else s.readMem b :=
  readMem_writeMem h _ _ _

theorem wf_writeMem {s : State} (h : s.mem.wf = true) (a : Addr) (v : Byte) : (s.mem.write a v).wf = true :=
  Memory.wf_write a v h

/-! ## The pc -/

@[simp] theorem pc_incPc (s : State) : s.incPc.pc = s.pc + 1 := joinBytes_inc s.ah s.al

@[simp] theorem pc_fetched (s : State) (i : Instr) : (s.fetched i).pc = s.pc + 1 := joinBytes_inc s.ah s.al

@[simp] theorem pc_takeOperand (s : State) (v : Byte) : (s.takeOperand v).pc = s.pc + 1 := joinBytes_inc s.ah s.al

@[simp] theorem pc_setPc (s : State) (hi lo : Byte) : (s.setPc hi lo).pc = joinBytes hi lo := rfl

@[simp] theorem pc_restorePc (s : State) : s.restorePc.pc = joinBytes (s.slot .ph) (s.slot .pl) := rfl

@[simp] theorem pc_setT (s : State) (v : Byte) : (s.setT v).pc = s.pc := rfl

@[simp] theorem pc_setFlags (s : State) (f : Nibble) : (s.setFlags f).pc = s.pc := rfl

@[simp] theorem pc_writeMem (s : State) (a : Addr) (v : Byte) : (s.writeMem a v).pc = s.pc := rfl

@[simp] theorem pc_setSlot (s : State) (x : Slot) (v : Byte) : (s.setSlot x v).pc = s.pc := rfl

@[simp] theorem pc_result (s : State) (x : Slot) (v : Byte) : (s.result x v).pc = s.pc := rfl

@[simp] theorem pc_savePc (s : State) : s.savePc.pc = s.pc := rfl

@[simp] theorem pc_pushByte (s : State) (v : Byte) : (s.pushByte v).pc = s.pc := rfl

@[simp] theorem pc_raiseSp (s : State) : s.raiseSp.pc = s.pc := rfl

@[simp] theorem pc_endSlot (s : State) : s.endSlot.pc = s.pc := rfl

@[simp] theorem pc_endPlain (s : State) : s.endPlain.pc = s.pc := rfl

/-- `AL` and `AH` are the bytes of the pc (`10_state.md` R14). -/
theorem loByte_pc (s : State) : loByte s.pc = s.al := loByte_joinBytes _ _

theorem hiByte_pc (s : State) : hiByte s.pc = s.ah := hiByte_joinBytes _ _

/-! ## Operations that leave memory alone -/

@[simp] theorem readMem_incPc (s : State) (a : Addr) : s.incPc.readMem a = s.readMem a := rfl

@[simp] theorem readMem_setT (s : State) (v : Byte) (a : Addr) : (s.setT v).readMem a = s.readMem a := rfl

@[simp] theorem readMem_setFlags (s : State) (f : Nibble) (a : Addr) : (s.setFlags f).readMem a = s.readMem a := rfl

@[simp] theorem readMem_fetched (s : State) (i : Instr) (a : Addr) : (s.fetched i).readMem a = s.readMem a := rfl

@[simp] theorem readMem_takeOperand (s : State) (v : Byte) (a : Addr) : (s.takeOperand v).readMem a = s.readMem a := rfl

@[simp] theorem readMem_setPc (s : State) (hi lo : Byte) (a : Addr) : (s.setPc hi lo).readMem a = s.readMem a := rfl

@[simp] theorem readMem_endSlot (s : State) (a : Addr) : s.endSlot.readMem a = s.readMem a := rfl

@[simp] theorem readMem_endPlain (s : State) (a : Addr) : s.endPlain.readMem a = s.readMem a := rfl

@[simp] theorem readMem_restorePc (s : State) (a : Addr) : s.restorePc.readMem a = s.readMem a := rfl

@[simp] theorem slot_fetched (s : State) (i : Instr) (x : Slot) : (s.fetched i).slot x = s.slot x := rfl

@[simp] theorem slot_takeOperand (s : State) (v : Byte) (x : Slot) : (s.takeOperand v).slot x = s.slot x := rfl

@[simp] theorem slot_endSlot (s : State) (x : Slot) : s.endSlot.slot x = s.slot x := rfl

@[simp] theorem slot_restorePc (s : State) (x : Slot) : s.restorePc.slot x = s.slot x := rfl

@[simp] theorem slot_setPc (s : State) (hi lo : Byte) (x : Slot) : (s.setPc hi lo).slot x = s.slot x := rfl

/-! ## What each shared operation leaves in memory -/

/-- A result byte stands in its slot; nothing else of memory changes. -/
theorem readMem_result {s : State} (h : s.mem.wf = true) (x : Slot) (v : Byte) (a : Addr) :
    (s.result x v).readMem a = if a = slotAddr x then v else s.readMem a :=
  Memory.read_write _ a v h

/-- The saved pc stands in `PL` and `PH`; nothing else of memory changes (`30_encoding.md` R75). -/
theorem readMem_savePc {s : State} (h : s.mem.wf = true) (a : Addr) :
    s.savePc.readMem a =
      if a = slotAddr .ph then hiByte s.pc else if a = slotAddr .pl then loByte s.pc else s.readMem a := by
  unfold State.savePc
  rw [readMem_setSlot (by simpa using wf_writeMem h _ _), readMem_setSlot h, loByte_pc, hiByte_pc]

/-- A push: the byte at the stack address, then the lowered stack pointer, which wins (`46_stack_and_control.md` R179,
`70_reset_and_hazards.md` R249). -/
theorem readMem_pushByte {s : State} (h : s.mem.wf = true) (v : Byte) (a : Addr) :
    (s.pushByte v).readMem a =
      if a = slotAddr .sp then s.slot .sp + 0xFF else if a = stackAddr (s.slot .sp) then v else s.readMem a := by
  unfold State.pushByte
  rw [readMem_result (by simpa using wf_writeMem h _ _), readMem_writeMem h]
  rfl

/-- The first half of a pop raises `SP`; nothing else of memory changes (`46_stack_and_control.md` R179). -/
theorem readMem_raiseSp {s : State} (h : s.mem.wf = true) (a : Addr) :
    s.raiseSp.readMem a = if a = slotAddr .sp then s.slot .sp + 1 else s.readMem a :=
  readMem_result h _ _ _

/-- The pointer write-back: high byte over low byte over what stood there (`43_memory_access.md` R141, R143). -/
theorem readMem_writeBack {s : State} (h : s.mem.wf = true) (p : Pair) (b a : Addr) :
    (s.writeBack p b).readMem a =
      if a = slotAddr (pairHigh p) then hiByte b else if a = slotAddr (pairLow p) then loByte b else s.readMem a := by
  unfold State.writeBack
  rw [readMem_result (by simpa using wf_writeMem h _ _), readMem_result h]

/-! ## Every operation keeps the canonical form of memory -/

theorem wf_setSlot {s : State} (h : s.mem.wf = true) (x : Slot) (v : Byte) : (s.setSlot x v).mem.wf = true :=
  wf_writeMem h _ _

theorem wf_result {s : State} (h : s.mem.wf = true) (x : Slot) (v : Byte) : (s.result x v).mem.wf = true :=
  wf_writeMem h _ _

theorem wf_savePc {s : State} (h : s.mem.wf = true) : s.savePc.mem.wf = true := wf_setSlot (wf_setSlot h _ _) _ _

theorem wf_pushByte {s : State} (h : s.mem.wf = true) (v : Byte) : (s.pushByte v).mem.wf = true :=
  wf_result (s := s.writeMem _ v) (wf_writeMem h _ _) _ _

theorem wf_raiseSp {s : State} (h : s.mem.wf = true) : s.raiseSp.mem.wf = true := wf_result h _ _

theorem wf_writeBack {s : State} (h : s.mem.wf = true) (p : Pair) (a : Addr) : (s.writeBack p a).mem.wf = true :=
  wf_result (wf_result h _ _) _ _

theorem wf_arithmetic {s : State} (h : s.mem.wf = true) (r : Reg) (v : Byte) (f : Nibble) :
    (s.arithmetic r v f).mem.wf = true := wf_writeMem h _ _

/-! ## A jump after its fetch (`46_stack_and_control.md` R189) -/

theorem pc_jump (s : State) (taken : Bool) (lo hi : Byte) :
    (s.jump taken lo hi).pc = if taken then joinBytes hi lo else s.pc + 1 + 1 := by
  cases taken
  · exact (pc_incPc s.incPc).trans (by simp)
  · rfl

@[simp] theorem t_jump (s : State) (taken : Bool) (lo hi : Byte) :
    (s.jump taken lo hi).t = if taken then lo else s.t := by cases taken <;> rfl

@[simp] theorem mem_jump (s : State) (taken : Bool) (lo hi : Byte) : (s.jump taken lo hi).mem = s.mem := by
  cases taken <;> rfl

/-- A jump changes the pc, `T` and `STEP` only. -/
theorem jump_frame (s : State) (taken : Bool) (lo hi : Byte) :
    { s.jump taken lo hi with ah := s.ah, al := s.al, t := s.t, ustep := s.ustep } = s := by cases taken <;> rfl

/-- Equal memories read alike. -/
theorem readMem_of_mem_eq {s t : State} (h : t.mem = s.mem) (a : Addr) : t.readMem a = s.readMem a := by
  unfold State.readMem; rw [h]

/-! ## Late operand bytes (`20_memory.md` R52) -/

/-- When the operand byte stood in memory at the start of the slot, a late operand is the byte that stands there when it
is read. -/
theorem lateByte_eq_readMem {s before : State} {v : Byte} (h : before.readMem s.pc = v) :
    s.lateByte before v = s.readMem s.pc := by
  unfold State.lateByte
  split <;> simp_all

end Sys2Proof.Machine
end

