-- ==== Sys2Proof/Laws/Cycle.lean ====
section
/-! SUPPORT. The fields of the control word of a microprogram row, and what one cycle does under such a word, in the
row's own terms: the lemma to cite in place of `cycleWord`. -/

namespace Sys2Proof.Machine

/-! ## The fields of `MicroOp.word` (`30_encoding.md` R60, R62) -/

/-- The load bits of a list of load lines. -/
def loadBits (loads : List Load) : ControlWord := loads.foldr (fun l w => l.bits ||| w) 0

@[simp] theorem loadBits_nil : loadBits [] = 0 := rfl

@[simp] theorem loadBits_cons (l : Load) (loads : List Load) : loadBits (l :: loads) = l.bits ||| loadBits loads := rfl

/-- The index of a load line in the control word. -/
def Load.index : Load → Nat
  | .mem => 5
  | .temp => 6
  | .flags => 7
  | .al => 8
  | .ah => 9

theorem getLsbD_loadBits (loads : List Load) (k : Load) : (loadBits loads).getLsbD k.index = decide (k ∈ loads) := by
  induction loads with
  | nil => simp
  | cons l rest ih =>
    have h : l.bits.getLsbD k.index = decide (k = l) := by cases l <;> cases k <;> rfl
    simp [BitVec.getLsbD_or, ih, h]

theorem loadBits_low (loads : List Load) : (loadBits loads).extractLsb' 0 5 = 0 := by
  induction loads with
  | nil => rfl
  | cons l rest ih =>
    have h : l.bits.extractLsb' 0 5 = 0 := by cases l <;> rfl
    rw [loadBits_cons, BitVec.extractLsb'_or, ih, h]; rfl

theorem loadBits_high (loads : List Load) : (loadBits loads).extractLsb' 10 6 = 0 := by
  induction loads with
  | nil => rfl
  | cons l rest ih =>
    have h : l.bits.extractLsb' 10 6 = 0 := by cases l <;> rfl
    rw [loadBits_cons, BitVec.extractLsb'_or, ih, h]; rfl

theorem loadBits_field (loads : List Load) : (loadBits loads).extractLsb' 10 4 = 0 := by
  induction loads with
  | nil => rfl
  | cons l rest ih =>
    have h : l.bits.extractLsb' 10 4 = 0 := by cases l <;> rfl
    rw [loadBits_cons, BitVec.extractLsb'_or, ih, h]; rfl

/-- The select field of a row. -/
def SelectUse.field : SelectUse → Nibble
  | .none => 0
  | .ir => 1
  | .io => 2
  | .rst => 3
  | .latch b => b

/-- Does a row latch the select? -/
def SelectUse.latches : SelectUse → Bool
  | .latch _ => true
  | .none | .ir | .io | .rst => false

/-- The `INC` bit of a row. -/
def incBits (inc : Bool) : ControlWord := if inc then 0x8000 else 0

theorem word_eq (m : MicroOp) :
    m.word = m.source.bits ||| loadBits m.loads ||| m.select.bits ||| incBits m.inc := rfl

theorem extract_low (m : MicroOp) : m.word.extractLsb' 0 5 = m.source.bits.extractLsb' 0 5 := by
  have h1 : m.select.bits.extractLsb' 0 5 = 0 := by
    cases m.select with
    | latch b => revert b; decide
    | _ => rfl
  have h2 : (incBits m.inc).extractLsb' 0 5 = 0 := by cases m.inc <;> rfl
  rw [word_eq, BitVec.extractLsb'_or, BitVec.extractLsb'_or, BitVec.extractLsb'_or, loadBits_low, h1, h2]
  simp

theorem extract_high (m : MicroOp) :
    m.word.extractLsb' 10 6 = m.select.bits.extractLsb' 10 6 ||| (incBits m.inc).extractLsb' 10 6 := by
  have h1 : m.source.bits.extractLsb' 10 6 = 0 := by cases m.source <;> rfl
  rw [word_eq, BitVec.extractLsb'_or, BitVec.extractLsb'_or, BitVec.extractLsb'_or, loadBits_high, h1]
  simp

/-- A row's word has the row's driver. -/
@[simp] theorem wordSource_word (m : MicroOp) : wordSource m.word = some m.source := by
  unfold wordSource
  rw [extract_low]
  cases m.source <;> rfl

theorem getLsbD_word_high (m : MicroOp) (k : Nat) (hk : k < 6) :
    m.word.getLsbD (10 + k) = (m.select.bits.getLsbD (10 + k) || (incBits m.inc).getLsbD (10 + k)) := by
  have h := congrArg (fun v => v.getLsbD k) (extract_high m)
  simpa [BitVec.getLsbD_extractLsb', hk] using h

@[simp] theorem wordLatches_word (m : MicroOp) : wordLatches m.word = m.select.latches := by
  have h := getLsbD_word_high m 4 (by decide)
  have h1 : (incBits m.inc).getLsbD 14 = false := by cases m.inc <;> rfl
  have h2 : m.select.bits.getLsbD 14 = m.select.latches := by
    cases m.select with
    | latch b => revert b; decide
    | _ => rfl
  unfold wordLatches
  rw [show (14 : Nat) = 10 + 4 from rfl, h, h1, h2, Bool.or_false]

@[simp] theorem wordIncs_word (m : MicroOp) : wordIncs m.word = m.inc := by
  have h := getLsbD_word_high m 5 (by decide)
  have h1 : (incBits m.inc).getLsbD 15 = m.inc := by cases m.inc <;> rfl
  have h2 : m.select.bits.getLsbD 15 = false := by
    cases m.select with
    | latch b => revert b; decide
    | _ => rfl
  unfold wordIncs
  rw [show (15 : Nat) = 10 + 5 from rfl, h, h1, h2, Bool.false_or]

@[simp] theorem wordField_word (m : MicroOp) : wordField m.word = m.select.field := by
  have h1 : (incBits m.inc).extractLsb' 10 4 = 0 := by cases m.inc <;> rfl
  have h2 : m.select.bits.extractLsb' 10 4 = m.select.field := by
    cases m.select with
    | latch b => revert b; decide
    | _ => rfl
  have h3 : m.source.bits.extractLsb' 10 4 = 0 := by cases m.source <;> rfl
  have h4 := loadBits_field m.loads
  unfold wordField
  rw [word_eq, BitVec.extractLsb'_or, BitVec.extractLsb'_or, BitVec.extractLsb'_or, h1, h2, h3, h4]
  simp

/-- A row's word has exactly the row's load bits. -/
theorem getLsbD_word (m : MicroOp) (k : Load) : m.word.getLsbD k.index = decide (k ∈ m.loads) := by
  have h1 : m.source.bits.getLsbD k.index = false := by cases m.source <;> cases k <;> rfl
  have h2 : m.select.bits.getLsbD k.index = false := by
    cases m.select with
    | latch b => revert b; cases k <;> decide
    | _ => cases k <;> rfl
  have h3 : (incBits m.inc).getLsbD k.index = false := by cases m.inc <;> cases k <;> rfl
  rw [word_eq, BitVec.getLsbD_or, BitVec.getLsbD_or, BitVec.getLsbD_or, h1, h2, h3, getLsbD_loadBits]
  simp

@[simp] theorem word_loadsMem (m : MicroOp) : m.word.getLsbD 5 = decide (Load.mem ∈ m.loads) := getLsbD_word m .mem

@[simp] theorem word_loadsTemp (m : MicroOp) : m.word.getLsbD 6 = decide (Load.temp ∈ m.loads) := getLsbD_word m .temp

@[simp] theorem word_loadsFlags (m : MicroOp) : m.word.getLsbD 7 = decide (Load.flags ∈ m.loads) :=
  getLsbD_word m .flags

@[simp] theorem word_loadsAl (m : MicroOp) : m.word.getLsbD 8 = decide (Load.al ∈ m.loads) := getLsbD_word m .al

@[simp] theorem word_loadsAh (m : MicroOp) : m.word.getLsbD 9 = decide (Load.ah ∈ m.loads) := getLsbD_word m .ah

/-! ## One cycle under a row's word -/

/-- What the bus carries when a port does not drive it (`41_cycle.md` R112). -/
def State.busValue (img : BootImage) (s : State) : BusSource → Byte
  | .mem => s.readMem s.maddr
  | .temp => s.t
  | .const => constByte s.bsel
  | .alu => s.aluOut img
  | .io => 0

/-- The state after a cycle under a row that drives the bus with `bus` and writes no port (`41_cycle.md` R115 to
R118). -/
def State.afterRow (s : State) (m : MicroOp) (bus : Byte) : State :=
  { s with
    mem := if Load.mem ∈ m.loads then s.mem.write s.maddr bus else s.mem
    t := if Load.temp ∈ m.loads then bus else s.t
    flags := if Load.flags ∈ m.loads then busFlags bus else s.flags
    bsel := if m.select.latches then m.select.field else s.bsel
    ir := if m.select = .ir then bus else s.ir
    al := if Load.al ∈ m.loads then bus else if m.inc then s.al + 1 else s.al
    ah := if Load.ah ∈ m.loads then bus
      else if m.inc ∧ Load.al ∉ m.loads ∧ s.al = 0xFF then s.ah + 1 else s.ah
    ustep := if m.select = .rst then 0 else s.ustep + 1 }

/-- Everything one cycle can do under the word of a row that accesses no port. -/
theorem cycleWord_word (img : BootImage) (m : MicroOp) (s : State) (hs : m.source ≠ .io) (hm : m.select ≠ .io) :
    cycleWord img m.word s =
      .ok (s.afterRow m (s.busValue img m.source), decide (m.select = .rst) || s.ustep == 15) := by
  obtain ⟨src, loads, sel, inc⟩ := m
  have hr : wordReserved (MicroOp.mk src loads sel inc).word = false := by
    simp only [wordReserved, wordLatches_word, wordField_word]
    cases sel <;> rfl
  have ha : ∀ c : Nibble, wordAux (MicroOp.mk src loads sel inc).word c = (!sel.latches && sel.field == c) := by
    intro c; simp [wordAux]
  have hd : s.drive img src = .ok (s.busValue img src, s) := by
    cases src <;> first | rfl | exact absurd rfl hs
  have h2 : wordAux (MicroOp.mk src loads sel inc).word 2 = false := by
    rw [ha]; cases sel <;> first | rfl | exact absurd rfl hm
  have h3 : wordAux (MicroOp.mk src loads sel inc).word 3 = decide (sel = .rst) := by
    rw [ha]; cases sel <;> rfl
  have h1 : wordAux (MicroOp.mk src loads sel inc).word 1 = decide (sel = .ir) := by
    rw [ha]; cases sel <;> rfl
  simp only [cycleWord, wordSource_word, hd, hr, h2, Bool.false_eq_true, if_false]
  have hs2 : (s.loadRegisters (MicroOp.mk src loads sel inc).word (s.busValue img src)).loadAddress
      (MicroOp.mk src loads sel inc).word (s.busValue img src) =
      { s.afterRow ⟨src, loads, sel, inc⟩ (s.busValue img src) with ustep := s.ustep } := by
    simp only [State.loadRegisters, State.loadAddress, State.afterRow, h1, word_loadsMem, word_loadsTemp,
      word_loadsFlags, word_loadsAl, word_loadsAh, wordLatches_word, wordField_word, wordIncs_word]
    by_cases hal : Load.al ∈ loads <;> cases inc <;> simp [hal]
  rw [hs2]
  simp only [State.advance, h3]
  by_cases e : sel = .rst <;> simp [e, State.afterRow]

/-! ## One cycle of a slot, and the slot row by row -/

/-- One cycle of `cycle` under the row that the microcode table holds for the state. -/
theorem cycle_row (img : BootImage) (s : State) {m : MicroOp} (h : ucodeRow s.flags s.ustep s.ir = m)
    (hs : m.source ≠ .io) (hm : m.select ≠ .io) :
    cycle img s = .ok (s.afterRow m (s.busValue img m.source), decide (m.select = .rst) || s.ustep == 15) := by
  subst h
  exact cycleWord_word img _ s hs hm

/-- A row that neither ends the slot nor accesses a port: the slot goes on from the state after it. -/
theorem slotLoop_row (img : BootImage) (fuel done : Nat) (s : State) {m : MicroOp}
    (h : ucodeRow s.flags s.ustep s.ir = m) (hs : m.source ≠ .io) (hm : m.select ≠ .io) (hr : m.select ≠ .rst)
    (hu : s.ustep ≠ 15) :
    slotLoop img (fuel + 1) done s = slotLoop img fuel (done + 1) (s.afterRow m (s.busValue img m.source)) := by
  have he : (decide (m.select = .rst) || s.ustep == 15) = false := by
    simp only [hr, decide_false, Bool.false_or, beq_eq_false_iff_ne]; exact hu
  rw [slotLoop, cycle_row img s h hs hm, he]

/-- A row that resets the microstep counter ends the slot. -/
theorem slotLoop_rst (img : BootImage) (fuel done : Nat) (s : State) {m : MicroOp}
    (h : ucodeRow s.flags s.ustep s.ir = m) (hs : m.source ≠ .io) (hr : m.select = .rst) :
    slotLoop img (fuel + 1) done s = .complete (s.afterRow m (s.busValue img m.source)) (done + 1) := by
  have he : (decide (m.select = .rst) || s.ustep == 15) = true := by simp [hr]
  rw [slotLoop, cycle_row img s h hs (by simp [hr]), he]

/-- A row at microstep 15 ends the slot by the wrap of the counter (`41_cycle.md` R118). -/
theorem slotLoop_wrap (img : BootImage) (fuel done : Nat) (s : State) {m : MicroOp}
    (h : ucodeRow s.flags s.ustep s.ir = m) (hs : m.source ≠ .io) (hm : m.select ≠ .io) (hu : s.ustep = 15) :
    slotLoop img (fuel + 1) done s = .complete (s.afterRow m (s.busValue img m.source)) (done + 1) := by
  have he : (decide (m.select = .rst) || s.ustep == 15) = true := by simp [hu]
  rw [slotLoop, cycle_row img s h hs hm, he]

/-! ## Instruction-complete -/

/-- A cycle reports instruction-complete exactly when it leaves `STEP` = 0 (`41_cycle.md` R118). -/
theorem State.advance_complete (s : State) (w : ControlWord) : (s.advance w).2 = ((s.advance w).1.ustep == 0) := by
  unfold State.advance
  split
  · rfl
  · have h : ∀ n : Nibble, (n == 15) = (n + 1 == 0) := by decide
    exact h s.ustep

theorem cycleWord_complete {img : BootImage} {w : ControlWord} {s t : State} {complete : Bool}
    (h : cycleWord img w s = .ok (t, complete)) : complete = (t.ustep == 0) := by
  have key : ∀ u : State, u.advance w = (t, complete) → complete = (t.ustep == 0) := by
    intro u hu
    have := u.advance_complete w
    rwa [hu] at this
  unfold cycleWord at h
  split at h
  · cases h
  · split at h
    · cases h
    · split at h
      · cases h
      · dsimp only at h
        split at h
        · split at h
          · cases h
          · exact key _ (Except.ok.inj h)
        · exact key _ (Except.ok.inj h)

end Sys2Proof.Machine
end

