-- ==== Sys2Proof/Laws/Flags.lean ====
section
/-! SUPPORT. The bits of a packed flag nibble, and the flags of the ALU's two flag operations in terms of the operands. -/

namespace Sys2Proof.Machine

@[simp] theorem flagC_packFlags (c s z i : Bool) : flagC (packFlags c s z i) = c := by revert c s z i; decide

@[simp] theorem flagS_packFlags (c s z i : Bool) : flagS (packFlags c s z i) = s := by revert c s z i; decide

@[simp] theorem flagZ_packFlags (c s z i : Bool) : flagZ (packFlags c s z i) = z := by revert c s z i; decide

@[simp] theorem flagI_packFlags (c s z i : Bool) : flagI (packFlags c s z i) = i := by revert c s z i; decide

/-- The low byte of the exact sum is the wrapping sum. -/
theorem ofNat_toNat_add (l r : Byte) : BitVec.ofNat 8 (l.toNat + r.toNat) = l + r :=
  BitVec.eq_of_toNat_eq (by simp)

theorem flagC_addFlags (r l : Byte) : flagC (addFlags r l) = decide (l.toNat + r.toNat > 255) := by simp [addFlags]

theorem flagS_addFlags (r l : Byte) : flagS (addFlags r l) = (l + r).getLsbD 7 := by
  simp only [addFlags, flagS_packFlags, ofNat_toNat_add]

theorem flagZ_addFlags (r l : Byte) : flagZ (addFlags r l) = decide (l + r = 0) := by
  simp only [addFlags, flagZ_packFlags, decide_eq_decide, ← BitVec.toNat_inj, BitVec.toNat_add]
  rfl

@[simp] theorem flagI_addFlags (r l : Byte) : flagI (addFlags r l) = true := by simp [addFlags]

@[simp] theorem flagI_shrFlags (l : Byte) : flagI (shrFlags l) = true := by simp [shrFlags]

/-- A flag nibble loaded from its byte is the nibble (`41_cycle.md` R115). -/
@[simp] theorem busFlags_flagByte (f : Nibble) : busFlags (flagByte f) = f := by revert f; decide

end Sys2Proof.Machine
end

