-- ==== Sys2Proof/Laws/Run.lean ====
section
/-! SUPPORT. One advance of a run: the lemmas to cite in place of `runUntilBreak`, `runCyclesWithHost` and
`hostedCycle`. -/

namespace Sys2Proof.Machine

variable {advance : Nat → State → Result} {s t : State} {k : Nat}

@[simp] theorem runUntilBreak_zero : runUntilBreak advance 0 k s = .running s := rfl

/-- An advance that leaves a completed `BRK` ends the run. -/
theorem runUntilBreak_break (fuel : Nat) (h : advance k s = .next t) (hb : t.atBreak = true) :
    runUntilBreak advance (fuel + 1) k s = .ended t (k + 1) := by simp [runUntilBreak, h, hb]

/-- After any other advance the run goes on. -/
theorem runUntilBreak_next (fuel : Nat) (h : advance k s = .next t) (hb : t.atBreak = false) :
    runUntilBreak advance (fuel + 1) k s = runUntilBreak advance fuel (k + 1) t := by simp [runUntilBreak, h, hb]

/-- A fault ends the run. -/
theorem runUntilBreak_fault {f : Fault} (fuel : Nat) (h : advance k s = .fault f) :
    runUntilBreak advance (fuel + 1) k s = .fault f k := by simp [runUntilBreak, h]

/-- A host action that is refused ends the run. -/
theorem runUntilBreak_refused {r : Refusal} (fuel : Nat) (h : advance k s = .refused r) :
    runUntilBreak advance (fuel + 1) k s = .refused r k := by simp [runUntilBreak, h]

theorem State.atBreak_iff : s.atBreak = true ↔ s.ustep = 0 ∧ s.ir = 0x01 := by simp [State.atBreak]

variable {img : BootImage} {host : HostBehaviour}

@[simp] theorem runCyclesWithHost_zero : runCyclesWithHost img host 0 k s = .next s := rfl

theorem runCyclesWithHost_next (n : Nat) (h : hostedCycle img host k s = .next t) :
    runCyclesWithHost img host (n + 1) k s = runCyclesWithHost img host n (k + 1) t := by simp [runCyclesWithHost, h]

/-- With the empty host a cycle is `cycle`. -/
theorem hostedCycle_empty :
    hostedCycle img emptyHost k s =
      match cycle img s with
      | .error f => raiseFault f
      | .ok (t, _) => .next t := rfl

/-- What the host does leaves everything of the machine but its four latches (`47_io_uart.md` R205). -/
theorem hostAct_next {action : Option HostAction} (h : hostAct action s = .next t) :
    t = { s with rxb := t.rxb, rxpend := t.rxpend, txrdy := t.txrdy } := by
  cases action with
  | none => cases h; rfl
  | some a =>
    cases a with
    | fill b =>
      simp only [hostAct, hostFill] at h
      split at h
      · cases h
      · cases h; rfl
    | drain =>
      simp only [hostAct, hostDrain] at h
      split at h <;> cases h <;> rfl

end Sys2Proof.Machine
end

