-- ==== Sys2Proof/Laws/Uart.lean ====
section
/-! SUPPORT. What a read and a write of port 3 do: the lemmas to cite in place of `State.port3Value`, `State.port3Polled` and
`State.port3Write` (`47_io_uart.md` R199, R200). -/

namespace Sys2Proof.Machine

/-- A saturating count, as the spec writes it: `min(255, n + 1)`. -/
theorem toNat_saturate (n : Byte) : (if n = 255 then 255 else n + 1).toNat = min 255 (n.toNat + 1) := by
  revert n; decide

/-- One bit as a byte. -/
theorem setWidth_ofBool (b : Bool) : (BitVec.ofBool b).setWidth 8 = if b then (0x01 : Byte) else 0x00 := by
  cases b <;> rfl

/-- A poll of port 3 answers its value and leaves its state. -/
theorem receivePolled_port3 (s : State) : ReceivePolled s s.port3Polled s.port3Value := by
  unfold ReceivePolled State.port3Polled State.port3Value
  rw [setWidth_ofBool]
  by_cases h0 : s.rxn = 0
  · simp only [h0, if_true, ne_eq, not_true]
    cases s.rxpend <;> cases s.out.getLsbD 1 <;> simp <;> exact toNat_saturate s.rxidle
  · by_cases h8 : s.rxn = 8
    · simp [h8]
    · simp only [h0, h8, if_false]
      exact ⟨trivial, fun c => c.elim, fun c => c.elim, fun _ => ⟨trivial, trivial, trivial, trivial⟩⟩

/-- A poll leaves the transmit half. -/
theorem transmitKept_port3Polled (s : State) : TransmitKept s s.port3Polled := by
  unfold TransmitKept State.port3Polled
  split <;> split <;> simp

/-- One bit of a byte replaced. -/
theorem getLsbD_setBit (v : Byte) (pos k : Nat) (bit : Bool) (hk : k < 8) :
    (setBit v pos bit).getLsbD k = if k = pos then bit else v.getLsbD k := by
  have one : ((1 : Byte) <<< pos).getLsbD k = decide (k = pos) := by
    rw [BitVec.getLsbD_shiftLeft, show ((1 : Byte).getLsbD (k - pos)) = decide (k - pos = 0) by
      rw [show (1 : Byte) = 1#8 from rfl, BitVec.getLsbD_one]; simp]
    by_cases e : k = pos
    · subst e; simp [hk]
    · by_cases hlt : k < pos
      · simp [hlt, e]
      · simp [hlt, e, show k - pos ≠ 0 by omega]
  cases bit
  · simp only [setBit, Bool.false_eq_true, if_false, BitVec.getLsbD_and, BitVec.getLsbD_not, one]
    by_cases e : k = pos <;> simp [e, hk]
  · simp only [setBit, if_true, BitVec.getLsbD_or, one]
    by_cases e : k = pos <;> simp [e]

/-- A write of port 3 leaves the latch and the transmit half as R200 says. -/
theorem transmitWritten_port3 (s : State) (v : Byte) (h : s.txn.toNat ≤ 8) : TransmitWritten s (s.port3Write v) v := by
  unfold TransmitWritten State.port3Write State.txShift
  by_cases h0 : s.txn = 0
  · cases ho : s.out.getLsbD 0 <;> cases hv : v.getLsbD 0 <;> simp_all
  · have hn : s.txn.toNat ≠ 0 := fun c => h0 (BitVec.eq_of_toNat_eq c)
    have bits : ∀ k : Nat, k < 8 → (setBit s.txb (s.txn.toNat - 1) (v.getLsbD 0)).getLsbD k =
        if k + 1 = s.txn.toNat then v.getLsbD 0 else s.txb.getLsbD k := by
      intro k hk
      rw [getLsbD_setBit _ _ _ _ hk]
      simp [show (k = s.txn.toNat - 1) = (k + 1 = s.txn.toNat) by simp; omega]
    refine ⟨rfl, fun c => absurd c h0, fun c => absurd c h0, fun _ => ?_⟩
    by_cases h8 : s.txn = 8
    · simp only [h8, if_true] at bits ⊢
      exact ⟨bits, rfl, rfl, rfl⟩
    · simp only [h0, h8, if_false]
      exact ⟨bits, trivial, trivial, trivial⟩

/-- A write leaves the receive half. -/
theorem receiveKept_port3Write (s : State) (v : Byte) : ReceiveKept s (s.port3Write v) := by
  unfold ReceiveKept State.port3Write State.txShift
  split <;> split <;> simp

end Sys2Proof.Machine
end

