-- ==== Sys2Proof/Tests/Slice0.lean ====
section
/-! SUPPORT. Tests. Expected values come from `95_test_vectors.md` (the vector's number is in the name) or from the
encodings of `30_encoding.md` R71, written out bit by bit. The `witness_` theorems show, for each statement of
Certificates/Slice0/Obligations.lean that has hypotheses, concrete states and operands that meet them, at the boundary of
each clause. -/

open Sys2Proof Sys2Proof.Machine

namespace Sys2Proof.Tests

/-! ## Helpers -/

/-- Bytes placed one after the other. -/
def place (s : State) (a : Addr) : List Byte → State
  | [] => s
  | v :: rest => place (s.writeMem a v) (a + 1) rest

/-- The state `S0` of `95_test_vectors.md` with other flags, `T`, pc, code, registers and bytes. -/
def start (flags : Nibble) (t : Byte) (pc : Addr) (code : List Byte) (slots : List (Slot × Byte))
    (bytes : List (Addr × Byte)) : State :=
  let s := place { State.reset with flags := flags, t := t, ah := hiByte pc, al := loByte pc } pc code
  let s1 := slots.foldl (fun s x => s.setSlot x.1 x.2) s
  bytes.foldl (fun s x => s.writeMem x.1 x.2) s1

/-- Does one step give a next state with a property? -/
def after (s : State) (p : State → Bool) : Bool :=
  match step s with
  | .next t => p t
  | .fault _ | .refused _ => false

/-- Does an outcome give this next state? -/
def answers (o : Result) (t : State) : Bool :=
  match o with
  | .next u => u == t
  | .fault _ | .refused _ => false

/-- Does an outcome end in this fault? -/
def faultsWith (o : Result) (f : Fault) : Bool :=
  match o with
  | .fault g => g == f
  | .next _ | .refused _ => false

/-- Is an outcome this refusal? -/
def refusedWith (o : Result) (r : Refusal) : Bool :=
  match o with
  | .refused q => q == r
  | .next _ | .fault _ => false

/-- Do two instructions, one after the other, both give a next state, the last with a property? -/
def afterTwo (s : State) (i j : Instr) (p : State → Bool) : Bool :=
  match exec i s with
  | .next t =>
    match exec j t with
    | .next u => p u
    | .fault _ | .refused _ => false
  | .fault _ | .refused _ => false

/-- Does the slot complete with the state an instruction's meaning gives, in this number of cycles? -/
def slotAgrees (img : BootImage) (s : State) (i : Instr) (cycles : Nat) : Bool :=
  match slotEnd img s with
  | .complete t n => answers (exec i s) t && n == cycles
  | .fault _ | .unfinished _ => false

/-- The boot image of `95_test_vectors.md` rows A39 to A43. -/
def image : BootImage := ⟨[0xDE, 0xAD, 0xBE], by decide⟩

/-! ## Well-formedness: each check refuses an ill-formed term and passes the ends of its range (R72) -/

theorem test_wellFormed_refuses_unmapped0E :
    (Instr.unmapped0E 0x0D).wellFormed = false ∧ (Instr.unmapped0E 0x10).wellFormed = false := by decide

theorem test_wellFormed_refuses_unmappedEC :
    (Instr.unmappedEC 0xEB).wellFormed = false ∧ (Instr.unmappedEC 0xF0).wellFormed = false := by decide

theorem test_wellFormed_refuses_unmappedF0 :
    (Instr.unmappedF0 0xEF).wellFormed = false ∧ (Instr.unmappedF0 0x00).wellFormed = false := by decide

theorem test_wellFormed_passes_the_ranges :
    (Instr.unmapped0E 0x0E).wellFormed = true ∧ (Instr.unmapped0E 0x0F).wellFormed = true ∧
      (Instr.unmappedEC 0xEC).wellFormed = true ∧ (Instr.unmappedEC 0xEF).wellFormed = true ∧
      (Instr.unmappedF0 0xF0).wellFormed = true ∧ (Instr.unmappedF0 0xFF).wellFormed = true := by decide

/-! ## Decoding: words written out from R71, one or more for every constructor -/

theorem test_decode_one_byte_system :
    decode [0b00000000] = .ok (.nop, []) ∧ decode [0b00000001] = .ok (.brk, []) ∧
      decode [0b00000010] = .ok (.skp, []) ∧ decode [0b00000110] = .ok (.retl, []) ∧
      decode [0b00000111] = .ok (.reth, []) := by decide

theorem test_decode_immediates :
    decode [0b00000011, 0xFE] = .ok (.ldt 0xFE, []) ∧ decode [0b00000100, 0x04] = .ok (.pshi 0x04, []) ∧
      decode [0b00001010, 0x7F] = .ok (.ldi .c 0x7F, []) ∧
      decode [0b00001101, 0x34, 0x12] = .ok (.ldp .cd 0x34 0x12, []) ∧
      decode [0b00000101, 0x34, 0x12, 0x06] = .ok (.calj 0x34 0x12 0x06, []) := by decide

theorem test_decode_moves_and_memory :
    decode [0b00010111] = .ok (.mov .b .d, []) ∧ decode [0b00100110] = .ok (.ld .c .cd, []) ∧
      decode [0b00101001] = .ok (.ldpi .b .ab, []) ∧ decode [0b00110010] = .ok (.st .ab .c, []) ∧
      decode [0b00111101] = .ok (.stpi .cd .b, []) ∧
      decode [0b01000011, 0x34, 0x12] = .ok (.lda .d 0x34 0x12, []) ∧
      decode [0b01000110, 0x34, 0x12] = .ok (.sta 0x34 0x12 .c, []) := by decide

theorem test_decode_arithmetic :
    decode [0b01001001] = .ok (.inc .b, []) ∧ decode [0b01001110] = .ok (.dec .c, []) ∧
      decode [0b01010011] = .ok (.incc .d, []) ∧ decode [0b01010100] = .ok (.decc .a, []) ∧
      decode [0b10010110] = .ok (.add .b .c, []) ∧ decode [0b10100011, 0xFF] = .ok (.addi .d 0xFF, []) := by decide

theorem test_decode_shifts :
    decode [0b01011010] = .ok (.shl .c, []) ∧ decode [0b01011101] = .ok (.shr .b, []) ∧
      decode [0b01100011] = .ok (.rcl .d, []) ∧ decode [0b01100110] = .ok (.rcr .c, []) ∧
      decode [0b10100101] = .ok (.tst .b, []) := by decide

theorem test_decode_logic_and_flags :
    decode [0b01101001, 0x0F] = .ok (.andi .b 0x0F, []) ∧ decode [0b01101111, 0x81] = .ok (.ori .d 0x81, []) ∧
      decode [0b01111000] = .ok (.and .c .a, []) ∧ decode [0b10001101] = .ok (.or .d .b, []) ∧
      decode [0b11100110] = .ok (.bmw .c, []) ∧ decode [0b11101001, 0x6A, 0xFB] = .ok (.bmx .b 0x6A 0xFB, []) ∧
      decode [0b10101010] = .ok (.ldf .c, []) ∧ decode [0b10101101] = .ok (.stf .b, []) := by decide

theorem test_decode_stack_and_jumps :
    decode [0b10110010] = .ok (.push .c, []) ∧ decode [0b10110101] = .ok (.pop .b, []) ∧
      decode [0b10111000, 0x34, 0x12] = .ok (.jmp 0x34 0x12, []) ∧
      decode [0b10111001, 0x34, 0x12] = .ok (.jz 0x34 0x12, []) ∧
      decode [0b10111010, 0x34, 0x12] = .ok (.jnz 0x34 0x12, []) ∧
      decode [0b10111011, 0x34, 0x12] = .ok (.jc 0x34 0x12, []) ∧
      decode [0b10111100, 0x34, 0x12] = .ok (.jnc 0x34 0x12, []) ∧
      decode [0b10111101, 0x34, 0x12] = .ok (.js 0x34 0x12, []) ∧
      decode [0b10111110, 0x34, 0x12] = .ok (.jbe 0x34 0x12, []) ∧
      decode [0b10111111, 0x34, 0x12] = .ok (.jae 0x34 0x12, []) := by decide

theorem test_decode_ports_and_unmapped :
    decode [0b11001110] = .ok (.out .p3 .c, []) ∧ decode [0b11010111] = .ok (.inp .d .p1, []) ∧
      decode [0b11100010, 0xBA] = .ok (.outi .p2 0xBA, []) ∧ decode [0b00001111] = .ok (.unmapped0E 0x0F, []) ∧
      decode [0b11101101] = .ok (.unmappedEC 0xED, []) ∧ decode [0b11111010] = .ok (.unmappedF0 0xFA, []) := by decide

theorem test_decode_refuses_short_bytes :
    decode [] = .error .noOpcode ∧ decode [0x03] = .error (.truncated 0x03) ∧
      decode [0x05, 0x00, 0x00] = .error (.truncated 0x05) := by decide

/-- The bytes after an instruction are left (R69). -/
theorem test_decode_leaves_the_rest : decode [0x01, 0x02, 0x03] = .ok (.brk, [0x02, 0x03]) := by decide

/-! ## The ALU table: rows of `95_test_vectors.md` 2.1 -/

theorem test_alu_bytes :
    alu image 0 0x12 0x34 = 0x34 ∧ alu image 1 0x12 0x34 = 0x12 ∧ alu image 2 0xF0 0xCC = 0x3F ∧
      alu image 2 0x00 0x5A = 0xFF ∧ alu image 3 0xF0 0x0C = 0xFC ∧ alu image 4 0x01 0xFF = 0x00 ∧
      alu image 4 0x20 0x70 = 0x90 := by decide

theorem test_alu_flags :
    alu image 5 0x01 0xFF = 0x0D ∧ alu image 5 0x20 0x70 = 0x0A ∧ alu image 5 0x00 0x00 = 0x0C ∧
      alu image 5 0xFF 0xFF = 0x0B := by decide

/-- Each sub-selector range at its ends (rows A20 to A38), the witness of `Obligations.AluUnaryFamily`. -/
theorem witness_AluUnaryFamily :
    alu image 6 0x02 0x81 = 0x40 ∧ alu image 6 0x03 0x81 = 0x09 ∧ alu image 6 0x03 0x01 = 0x0D ∧
      alu image 6 0x04 0xAB = 0x04 ∧ alu image 6 0x00 0xAB = 0x0C ∧ alu image 6 0x05 0x00 = 0x0C ∧
      alu image 6 0x3F 0xFF = 0x0C ∧ alu image 6 0x40 0x01 = 0x01 ∧ alu image 6 0x7F 0x80 = 0x80 ∧
      alu image 6 0x80 0xFF = 0x0C ∧ alu image 6 0xFF 0x12 = 0x0C ∧ alu image 6 0x6A 0x20 = 0x04 := by decide

/-- Inside the image, its last byte, and both sides outside (rows A39 to A43), the witness of
`Obligations.AluBootRegion`. -/
theorem witness_AluBootRegion :
    alu image 7 0x03 0xFF = 0xFF ∧ alu image 7 0x04 0x00 = 0xDE ∧ alu image 7 0x04 0x02 = 0xBE ∧
      alu image 7 0x04 0x03 = 0x03 ∧ alu image 7 0x05 0xFF = 0xFF ∧ alu image 7 0x06 0x00 = 0x00 := by decide

/-! ## Control words: W1 to W4 of `95_test_vectors.md` -/

theorem test_control_words_W1 :
    idleOp.word = 0x0004 ∧ fetchOp.word = 0x8401 ∧ rstOp.word = 0x0C04 ∧ (row .const [] (toReg .a)).word = 0x6804 ∧
      (row .temp [] .io).word = 0x0802 ∧ (rowInc .alu [.mem] (toAlu .passr)).word = 0xC428 ∧
      (row .io [.temp] (toReg .a)).word = 0x6850 := by decide

theorem test_stored_images_W1 :
    imageLow 0x8048 = 0xFE ∧ imageHigh 0x8048 = 0xC7 ∧ imageLow 0x8FEC = 0xFB ∧ imageHigh 0x8FEC = 0x43 ∧
      storedWord 0x3000 = 0x13FB := by decide

/-- The control words of `INC A` (W2), in order. -/
theorem test_microprogram_of_inc_W2 :
    (microprogram (.inc .a) 0x8).map MicroOp.word = [0x6004, 0x6428, 0x6828, 0x4501, 0x5204, 0x0004, 0x5448, 0x6888,
      0x6422, 0x6201, 0x4101, 0x0C04] := by decide

/-- The whole slot of `INC A` through `cycle` (W2): thirteen cycles, the state of the instruction's meaning. -/
theorem test_slot_of_inc_W2 : slotAgrees image (start 0x8 0x00 0x0400 [0x48] [(.a, 0xFF)] []) (.inc .a) 13 = true := by
  decide

/-- W4: twelve cycles after reset with the image `08 2A 01`. -/
theorem test_power_on_W4 :
    answers (runCyclesWithHost ⟨[0x08, 0x2A, 0x01], by decide⟩ emptyHost 12 0 State.reset)
      { State.reset with
        flags := 0x4, bsel := 1, ustep := 1, ah := 0x04, al := 0x03, mem := ⟨[(0x0400, 0x08), (0x0401, 0x2A), (0x0402, 0x01)]⟩ } =
      true := by
  decide +kernel

/-! ## One step of each instruction -/

/-- V21: NOP. -/
theorem test_nop_V21 :
    after (start 0x8 0x00 0xFFFF [0x00] [] [])
      (fun t => t.pc == 0x0000 && t.flags == 0x8) = true := by decide

/-- V22: (unmapped 0xEC). -/
theorem test_unmapped_V22 :
    after (start 0x8 0x00 0x0400 [0xEC] [] [])
      (fun t => t.pc == 0x0401 && t.flags == 0x8) = true := by decide

/-- V23: (unmapped 0x0F). -/
theorem test_unmapped_V23 :
    after (start 0xF 0x5A 0x0400 [0x0F] [(.a, 0x01), (.w, 0x09)] [])
      (fun t => t.pc == 0x0401 && t.flags == 0xF) = true := by decide

/-- V24: LDI C, 0x7F. -/
theorem test_ldi_V24 :
    after (start 0x8 0x00 0x0400 [0x0A, 0x7F] [] [])
      (fun t => t.pc == 0x0402 && t.t == 0x7F && t.slot .c == 0x7F && t.flags == 0x8) = true := by decide

/-- V26: LDP CD, 0x1234. -/
theorem test_ldp_V26 :
    after (start 0x8 0x00 0x0400 [0x0D, 0x34, 0x12] [] [])
      (fun t => t.pc == 0x0403 && t.t == 0x12 && t.slot .c == 0x34 && t.slot .d == 0x12 && t.flags == 0x8) = true := by decide

/-- V28: LDT 0xA5. -/
theorem test_ldt_V28 :
    after (start 0x8 0x00 0x0400 [0x03, 0xA5] [] [])
      (fun t => t.pc == 0x0402 && t.t == 0xA5 && t.flags == 0x8) = true := by decide

/-- V29: MOV B, A. -/
theorem test_mov_V29 :
    after (start 0x8 0x00 0x0400 [0x14] [(.a, 0x42), (.b, 0x99)] [])
      (fun t => t.pc == 0x0401 && t.t == 0x42 && t.slot .b == 0x42 && t.flags == 0x8) = true := by decide

/-- V41: LD C, [CD]. -/
theorem test_ld_V41 :
    after (start 0x8 0x00 0x0400 [0x26] [(.c, 0x00), (.d, 0x20)] [(0x2000, 0x5A)])
      (fun t => t.pc == 0x0401 && t.t == 0x5A && t.slot .c == 0x5A && t.flags == 0x8) = true := by decide

/-- V42: LD A, [AB]. -/
theorem test_ld_V42 :
    after (start 0x8 0x00 0x0400 [0x20] [(.a, 0xF6), (.b, 0xFF), (.sp, 0xE0)] [])
      (fun t => t.pc == 0x0401 && t.t == 0xE0 && t.slot .a == 0xE0 && t.flags == 0x8) = true := by decide

/-- V43: LD B, [CD]+. -/
theorem test_ldpi_V43 :
    after (start 0x8 0x00 0x0400 [0x2D] [(.c, 0xFF), (.d, 0x20)] [(0x20FF, 0x11)])
      (fun t => t.pc == 0x0401 && t.t == 0x21 && t.slot .b == 0x11 && t.slot .c == 0x00 && t.slot .d == 0x21 && t.flags == 0x8) = true := by decide

/-- V45: LD C, [CD]+. -/
theorem test_ldpi_V45 :
    after (start 0x8 0x00 0x0400 [0x2E] [(.c, 0x10), (.d, 0x20)] [(0x2010, 0x99)])
      (fun t => t.pc == 0x0401 && t.t == 0x20 && t.slot .c == 0x11 && t.flags == 0x8) = true := by decide

/-- V46: ST [AB], C. -/
theorem test_st_V46 :
    after (start 0x8 0x00 0x0400 [0x32] [(.a, 0x00), (.b, 0x30), (.c, 0x20)] [])
      (fun t => t.pc == 0x0401 && t.t == 0x20 && t.readMem 0x3000 == 0x20 && t.slot .pl == 0x01 && t.slot .ph == 0x04 && t.flags == 0x8) = true := by decide

/-- V47: ST [AB], C. -/
theorem test_st_V47 :
    after (start 0x8 0x00 0x0400 [0x32] [(.a, 0xF1), (.b, 0xFF), (.c, 0x20)] [])
      (fun t => t.pc == 0x2001 && t.t == 0x20 && t.slot .pl == 0x01 && t.slot .ph == 0x20 && t.flags == 0x8) = true := by decide

/-- V50: ST [CD]+, A. -/
theorem test_stpi_V50 :
    after (start 0x8 0x00 0x0400 [0x3C] [(.a, 0xEE), (.c, 0xFF), (.d, 0x2F)] [])
      (fun t => t.pc == 0x0401 && t.t == 0x30 && t.readMem 0x2FFF == 0xEE && t.slot .c == 0x00 && t.slot .d == 0x30 && t.flags == 0x8) = true := by decide

/-- V51: ST [CD]+, C. -/
theorem test_stpi_V51 :
    after (start 0x8 0x00 0x0400 [0x3E] [(.c, 0x10), (.d, 0x20)] [])
      (fun t => t.pc == 0x0401 && t.t == 0x20 && t.readMem 0x2010 == 0x10 && t.slot .c == 0x11 && t.flags == 0x8) = true := by decide

/-- V52: LDA D, [0x1234]. -/
theorem test_lda_V52 :
    after (start 0x8 0x00 0x0400 [0x43, 0x34, 0x12] [] [(0x1234, 0xAB)])
      (fun t => t.pc == 0x0403 && t.t == 0xAB && t.slot .d == 0xAB && t.slot .w == 0x34 && t.flags == 0x8) = true := by decide

/-- V54: STA [0x1234], B. -/
theorem test_sta_V54 :
    after (start 0x8 0x00 0x0400 [0x45, 0x34, 0x12] [(.b, 0xCD)] [])
      (fun t => t.pc == 0x0403 && t.t == 0xCD && t.readMem 0x1234 == 0xCD && t.slot .w == 0x34 && t.flags == 0x8) = true := by decide

/-- V55: STA [0xFFF6], A. -/
theorem test_sta_V55 :
    after (start 0x8 0x00 0x0400 [0x44, 0xF6, 0xFF] [(.a, 0xEF)] [])
      (fun t => t.pc == 0x0403 && t.t == 0xEF && t.slot .sp == 0xEF && t.slot .w == 0xF6 && t.flags == 0x8) = true := by decide

/-- V61: INC A. -/
theorem test_inc_V61 :
    after (start 0x8 0x00 0x0400 [0x48] [(.a, 0x7F)] [])
      (fun t => t.pc == 0x0401 && t.flags == 0xA && t.t == 0x80 && t.slot .a == 0x80) = true := by decide

/-- V62: INC A. -/
theorem test_inc_V62 :
    after (start 0x8 0x00 0x0400 [0x48] [(.a, 0xFF)] [])
      (fun t => t.pc == 0x0401 && t.flags == 0xD && t.slot .a == 0x00) = true := by decide

/-- V66: DEC B. -/
theorem test_dec_V66 :
    after (start 0x8 0x00 0x0400 [0x4D] [(.b, 0x00)] [])
      (fun t => t.pc == 0x0401 && t.flags == 0xA && t.t == 0xFF && t.slot .b == 0xFF) = true := by decide

/-- V67: DEC B. -/
theorem test_dec_V67 :
    after (start 0x8 0x00 0x0400 [0x4D] [(.b, 0x80)] [])
      (fun t => t.pc == 0x0401 && t.flags == 0x9 && t.t == 0x7F && t.slot .b == 0x7F) = true := by decide

/-- V70: INCC B. -/
theorem test_incc_V70 :
    after (start 0x9 0x00 0x0400 [0x51] [(.b, 0xFF)] [])
      (fun t => t.pc == 0x0401 && t.flags == 0xD && t.slot .b == 0x00) = true := by decide

/-- V71: INCC B. -/
theorem test_incc_V71 :
    after (start 0xE 0x00 0x0400 [0x51] [(.b, 0x00)] [])
      (fun t => t.pc == 0x0401 && t.flags == 0xC) = true := by decide

/-- V72: DECC C. -/
theorem test_decc_V72 :
    after (start 0x8 0x00 0x0400 [0x56] [(.c, 0x10)] [])
      (fun t => t.pc == 0x0401 && t.flags == 0x9 && t.t == 0x0F && t.slot .c == 0x0F) = true := by decide

/-- V73: DECC C. -/
theorem test_decc_V73 :
    after (start 0x9 0x00 0x0400 [0x56] [(.c, 0x10)] [])
      (fun t => t.pc == 0x0401 && t.flags == 0x8 && t.t == 0x10) = true := by decide

/-- V76: SHL A. -/
theorem test_shl_V76 :
    after (start 0x8 0x00 0x0400 [0x58] [(.a, 0x80)] [])
      (fun t => t.pc == 0x0401 && t.flags == 0xD && t.slot .a == 0x00) = true := by decide

/-- V77: SHL A. -/
theorem test_shl_V77 :
    after (start 0x9 0x00 0x0400 [0x58] [(.a, 0x40)] [])
      (fun t => t.pc == 0x0401 && t.flags == 0xA && t.t == 0x80 && t.slot .a == 0x80) = true := by decide

/-- V78: SHR A. -/
theorem test_shr_V78 :
    after (start 0x8 0x00 0x0400 [0x5C] [(.a, 0x81)] [])
      (fun t => t.pc == 0x0401 && t.flags == 0x9 && t.t == 0x40 && t.slot .a == 0x40) = true := by decide

/-- V80: SHR A. -/
theorem test_shr_V80 :
    after (start 0x9 0x00 0x0400 [0x5C] [(.a, 0xFE)] [])
      (fun t => t.pc == 0x0401 && t.flags == 0x8 && t.t == 0x7F && t.slot .a == 0x7F) = true := by decide

/-- V81: RCL A. -/
theorem test_rcl_V81 :
    after (start 0x9 0x00 0x0400 [0x60] [(.a, 0x80)] [])
      (fun t => t.pc == 0x0401 && t.flags == 0xD && t.t == 0x01 && t.slot .a == 0x01 && t.slot .w == 0x0D) = true := by decide

/-- V83: RCL A. -/
theorem test_rcl_V83 :
    after (start 0x9 0x00 0x0400 [0x60] [(.a, 0x55)] [])
      (fun t => t.pc == 0x0401 && t.flags == 0xA && t.t == 0xAB && t.slot .a == 0xAB && t.slot .w == 0x0A) = true := by decide

/-- V84: RCR A. -/
theorem test_rcr_V84 :
    after (start 0x9 0x00 0x0400 [0x64] [(.a, 0x01)] [])
      (fun t => t.pc == 0x0401 && t.flags == 0xD && t.t == 0x80 && t.slot .a == 0x80) = true := by decide

/-- V86: RCR A. -/
theorem test_rcr_V86 :
    after (start 0x9 0x00 0x0400 [0x64] [(.a, 0xAA)] [])
      (fun t => t.pc == 0x0401 && t.flags == 0x8 && t.t == 0xD5 && t.slot .a == 0xD5) = true := by decide

/-- V87: ADD A, B. -/
theorem test_add_V87 :
    after (start 0x8 0x00 0x0400 [0x91] [(.a, 0x70), (.b, 0x20)] [])
      (fun t => t.pc == 0x0401 && t.flags == 0xA && t.t == 0x90 && t.slot .a == 0x90) = true := by decide

/-- V89: ADD C, C. -/
theorem test_add_V89 :
    after (start 0x8 0x00 0x0400 [0x9A] [(.c, 0x81)] [])
      (fun t => t.pc == 0x0401 && t.flags == 0x9 && t.t == 0x02 && t.slot .c == 0x02) = true := by decide

/-- V90: ADDI D, 0xFF. -/
theorem test_addi_V90 :
    after (start 0x8 0x00 0x0400 [0xA3, 0xFF] [(.d, 0x05)] [])
      (fun t => t.pc == 0x0402 && t.flags == 0x9 && t.t == 0x04 && t.slot .d == 0x04) = true := by decide

/-- V91: ADDI D, 0x00. -/
theorem test_addi_V91 :
    after (start 0xB 0x00 0x0400 [0xA3, 0x00] [(.d, 0x00)] [])
      (fun t => t.pc == 0x0402 && t.flags == 0xC) = true := by decide

/-- V93: TST B. -/
theorem test_tst_V93 :
    after (start 0xD 0x66 0x0400 [0xA5] [(.b, 0x80)] [])
      (fun t => t.pc == 0x0401 && t.flags == 0xA) = true := by decide

/-- V100: ANDI A, 0x0F. -/
theorem test_andi_V100 :
    after (start 0xF 0x00 0x0400 [0x68, 0x0F] [(.a, 0xA5)] [])
      (fun t => t.pc == 0x0402 && t.t == 0x05 && t.slot .a == 0x05 && t.flags == 0xF) = true := by decide

/-- V102: ORI B, 0x81. -/
theorem test_ori_V102 :
    after (start 0x8 0x00 0x0400 [0x6D, 0x81] [(.b, 0x12)] [])
      (fun t => t.pc == 0x0402 && t.t == 0x93 && t.slot .b == 0x93 && t.flags == 0x8) = true := by decide

/-- V103: AND A, B. -/
theorem test_and_V103 :
    after (start 0x8 0x00 0x0400 [0x71] [(.a, 0xCC), (.b, 0xAA)] [])
      (fun t => t.pc == 0x0401 && t.t == 0x88 && t.slot .a == 0x88 && t.flags == 0x8) = true := by decide

/-- V105: OR A, B. -/
theorem test_or_V105 :
    after (start 0x8 0x00 0x0400 [0x81] [(.a, 0xCC), (.b, 0xAA)] [])
      (fun t => t.pc == 0x0401 && t.t == 0xEE && t.slot .a == 0xEE && t.flags == 0x8) = true := by decide

/-- V107: BMX A, 0x6A, 0xFB. -/
theorem test_bmx_V107 :
    after (start 0x8 0x00 0x0400 [0xE8, 0x6A, 0xFB] [(.a, 0x20)] [])
      (fun t => t.pc == 0x0403 && t.t == 0xFB && t.slot .w == 0x04 && t.flags == 0x8) = true := by decide

/-- V112: BMX A, 0x02, 0x00. -/
theorem test_bmx_V112 :
    after (start 0x8 0x00 0x0400 [0xE8, 0x02, 0x00] [(.a, 0x85)] [])
      (fun t => t.pc == 0x0403 && t.slot .w == 0x42 && t.flags == 0x8) = true := by decide

/-- V111: BMW B (alone). -/
theorem test_bmw_V111 :
    after (start 0x8 0xF0 0x0400 [0xE5] [(.b, 0xAB), (.w, 0x04)] [])
      (fun t => t.pc == 0x0401 && t.t == 0xA4 && t.slot .b == 0xA4 && t.flags == 0x8) = true := by decide

/-- V113: LDF A. -/
theorem test_ldf_V113 :
    after (start 0xD 0x00 0x0400 [0xA8] [] [])
      (fun t => t.pc == 0x0401 && t.t == 0x0D && t.slot .a == 0x0D && t.flags == 0xD) = true := by decide

/-- V116: STF A. -/
theorem test_stf_V116 :
    after (start 0xE 0x00 0x0400 [0xAC] [(.a, 0xF9)] [])
      (fun t => t.pc == 0x0401 && t.flags == 0x9) = true := by decide

/-- V122: PUSH A. -/
theorem test_push_V122 :
    after (start 0x8 0x00 0x0400 [0xB0] [(.a, 0x33), (.sp, 0xF1)] [])
      (fun t => t.pc == 0x3301 && t.t == 0xF0 && t.slot .pl == 0x01 && t.slot .ph == 0x33 && t.slot .sp == 0xF0 && t.flags == 0x8) = true := by decide

/-- V123: PUSH A. -/
theorem test_push_V123 :
    after (start 0x8 0x00 0x0400 [0xB0] [(.a, 0x33), (.sp, 0xF6)] [])
      (fun t => t.pc == 0x0401 && t.t == 0xF5 && t.slot .pl == 0x01 && t.slot .ph == 0x04 && t.slot .sp == 0xF5 && t.flags == 0x8) = true := by decide

/-- V124: POP B. -/
theorem test_pop_V124 :
    after (start 0x8 0x00 0x0400 [0xB5] [(.sp, 0xEE)] [(0xFFEF, 0x77)])
      (fun t => t.pc == 0x0401 && t.t == 0x77 && t.slot .b == 0x77 && t.slot .sp == 0xEF && t.flags == 0x8) = true := by decide

/-- V125: POP B. -/
theorem test_pop_V125 :
    after (start 0x8 0x00 0x0400 [0xB5] [(.sp, 0xFF)] [(0xFF00, 0x12)])
      (fun t => t.pc == 0x0401 && t.t == 0x12 && t.slot .b == 0x12 && t.slot .sp == 0x00 && t.flags == 0x8) = true := by decide

/-- V127: PSHI 0x99. -/
theorem test_pshi_V127 :
    after (start 0x8 0x00 0x0400 [0x04, 0x99] [(.sp, 0xEF)] [])
      (fun t => t.pc == 0x0402 && t.t == 0xEE && t.readMem 0xFFEF == 0x99 && t.slot .sp == 0xEE && t.flags == 0x8) = true := by decide

/-- V129: CALJ 0x34, 0x12, 0x06 (alone). -/
theorem test_calj_V129 :
    after (start 0x8 0x00 0x0400 [0x05, 0x34, 0x12, 0x06] [(.sp, 0xEE)] [])
      (fun t => t.pc == 0x1234 && t.t == 0xED && t.readMem 0xFFEE == 0x06 && t.slot .sp == 0xED && t.slot .w == 0x34 && t.flags == 0x8) = true := by decide

/-- V130: RETL. -/
theorem test_retl_V130 :
    after (start 0x8 0x00 0x0400 [0x06] [(.sp, 0xED)] [(0xFFEE, 0x06), (0xFFEF, 0x04)])
      (fun t => t.pc == 0x0401 && t.t == 0x06 && t.slot .sp == 0xEE && t.slot .w == 0x06 && t.flags == 0x8) = true := by decide

/-- V132: RETH (alone). -/
theorem test_reth_V132 :
    after (start 0x8 0x00 0x0400 [0x07] [(.sp, 0xEE), (.w, 0x55)] [(0xFFEF, 0x20)])
      (fun t => t.pc == 0x2055 && t.t == 0xEF && t.slot .sp == 0xEF && t.flags == 0x8) = true := by decide

/-- V140: JMP 0x1234. -/
theorem test_jmp_V140 :
    after (start 0x8 0xEE 0x0400 [0xB8, 0x34, 0x12] [] [])
      (fun t => t.pc == 0x1234 && t.t == 0x34 && t.flags == 0x8) = true := by decide

/-- V141: JZ 0x1234. -/
theorem test_jz_V141 :
    after (start 0xC 0xEE 0x0400 [0xB9, 0x34, 0x12] [] [])
      (fun t => t.pc == 0x1234 && t.t == 0x34 && t.flags == 0xC) = true := by decide

/-- V142: JZ 0x1234. -/
theorem test_jz_V142 :
    after (start 0x8 0xEE 0x0400 [0xB9, 0x34, 0x12] [] [])
      (fun t => t.pc == 0x0403 && t.flags == 0x8) = true := by decide

/-- V143: JNZ 0x1234. -/
theorem test_jnz_V143 :
    after (start 0x8 0xEE 0x0400 [0xBA, 0x34, 0x12] [] [])
      (fun t => t.pc == 0x1234 && t.t == 0x34 && t.flags == 0x8) = true := by decide

/-- V144: JNZ 0x1234. -/
theorem test_jnz_V144 :
    after (start 0xC 0xEE 0x0400 [0xBA, 0x34, 0x12] [] [])
      (fun t => t.pc == 0x0403 && t.flags == 0xC) = true := by decide

/-- V145: JC 0x1234. -/
theorem test_jc_V145 :
    after (start 0x9 0xEE 0x0400 [0xBB, 0x34, 0x12] [] [])
      (fun t => t.pc == 0x1234 && t.t == 0x34 && t.flags == 0x9) = true := by decide

/-- V146: JC 0x1234. -/
theorem test_jc_V146 :
    after (start 0x8 0xEE 0x0400 [0xBB, 0x34, 0x12] [] [])
      (fun t => t.pc == 0x0403 && t.flags == 0x8) = true := by decide

/-- V147: JNC 0x1234. -/
theorem test_jnc_V147 :
    after (start 0x8 0xEE 0x0400 [0xBC, 0x34, 0x12] [] [])
      (fun t => t.pc == 0x1234 && t.t == 0x34 && t.flags == 0x8) = true := by decide

/-- V148: JNC 0x1234. -/
theorem test_jnc_V148 :
    after (start 0x9 0xEE 0x0400 [0xBC, 0x34, 0x12] [] [])
      (fun t => t.pc == 0x0403 && t.flags == 0x9) = true := by decide

/-- V149: JS 0x1234. -/
theorem test_js_V149 :
    after (start 0xA 0xEE 0x0400 [0xBD, 0x34, 0x12] [] [])
      (fun t => t.pc == 0x1234 && t.t == 0x34 && t.flags == 0xA) = true := by decide

/-- V150: JS 0x1234. -/
theorem test_js_V150 :
    after (start 0x8 0xEE 0x0400 [0xBD, 0x34, 0x12] [] [])
      (fun t => t.pc == 0x0403 && t.flags == 0x8) = true := by decide

/-- V153: JBE 0x1234. -/
theorem test_jbe_V153 :
    after (start 0x9 0xEE 0x0400 [0xBE, 0x34, 0x12] [] [])
      (fun t => t.pc == 0x0403 && t.flags == 0x9) = true := by decide

/-- V154: JBE 0x1234. -/
theorem test_jbe_V154 :
    after (start 0xD 0xEE 0x0400 [0xBE, 0x34, 0x12] [] [])
      (fun t => t.pc == 0x1234 && t.t == 0x34 && t.flags == 0xD) = true := by decide

/-- V156: JAE 0x1234. -/
theorem test_jae_V156 :
    after (start 0x9 0xEE 0x0400 [0xBF, 0x34, 0x12] [] [])
      (fun t => t.pc == 0x1234 && t.t == 0x34 && t.flags == 0x9) = true := by decide

/-- V157: JAE 0x1234. -/
theorem test_jae_V157 :
    after (start 0x8 0xEE 0x0400 [0xBF, 0x34, 0x12] [] [])
      (fun t => t.pc == 0x0403 && t.flags == 0x8) = true := by decide

/-- V159: BRK. -/
theorem test_brk_V159 :
    after (start 0x8 0x00 0x0400 [0x01] [] [])
      (fun t => t.pc == 0x0401 && t.flags == 0x8) = true := by decide

/-- V160: SKP. -/
theorem test_skp_V160 :
    after (start 0x8 0x00 0x0400 [0x02] [] [])
      (fun t => t.pc == 0x0402 && t.flags == 0x8) = true := by decide

/-- V172: OUTI 3, 0x00. -/
theorem test_outi_V172 :
    after { start 0x8 0x00 0x0400 [0xE3, 0x00] [] [] with out := 1 }
      (fun t => t.pc == 0x0402 && t.out == 0 && t.txn == 1 && t.flags == 0x8) = true := by decide

/-- V174: OUTI 3, 0x01. -/
theorem test_outi_V174 :
    after { start 0x8 0x00 0x0400 [0xE3, 0x01] [] [] with out := 0, txn := 8, txb := 65 }
      (fun t => t.pc == 0x0402 && t.t == 0x01 && t.out == 1 && t.txb == 193 && t.txn == 0 && t.txrdy == true && t.txd == 193 && t.flags == 0x8) = true := by decide

/-- V176: OUT 3, A. -/
theorem test_out_V176 :
    after (start 0x8 0x00 0x0400 [0xCC] [(.a, 0x03)] [])
      (fun t => t.pc == 0x0401 && t.t == 0x03 && t.out == 3 && t.flags == 0x8) = true := by decide

/-- V180: IN A, 3. -/
theorem test_inp_V180 :
    after { start 0x8 0x00 0x0400 [0xDC] [(.a, 0xFF)] [] with rxb := 165, rxpend := true, out := 3, rxidle := 7 }
      (fun t => t.pc == 0x0401 && t.rxn == 1 && t.rxidle == 0 && t.slot .a == 0x00 && t.flags == 0x8) = true := by decide

/-- V183: IN A, 3. -/
theorem test_inp_V183 :
    after { start 0x8 0x00 0x0400 [0xDC] [] [] with rxb := 165, rxpend := true, out := 3, rxn := 8 }
      (fun t => t.pc == 0x0401 && t.t == 0x01 && t.rxn == 0 && t.rxpend == false && t.slot .a == 0x01 && t.flags == 0x8) = true := by decide

/-- 0xF7 is unmapped (R72): only the pc and `IR` change. -/
theorem test_unmappedF0 :
    after (start 0x9 0x5A 0x0400 [0xF7] [(.c, 0x01)] [])
      (fun t => t.pc == 0x0401 && t.ir == 0xF7 && t.t == 0x5A && t.flags == 0x9) = true := by decide

/-- V184 to V186: the three reachable faults. -/
theorem test_missing_ports_V184_V185_V186 :
    faultsWith (step (start 0x8 0x00 0x0400 [0xC0] [(.a, 0x5A)] [])) .unsupportedPort = true ∧
      faultsWith (step (start 0x8 0x00 0x0400 [0xD9] [] [])) .unsupportedPort = true ∧
      faultsWith (step (start 0x8 0x00 0x0400 [0xE1, 0x77] [] [])) .unsupportedPort = true := by decide

/-- W6: the start bit needs `OUT[1]` = 1; a fill while one is pending is refused (R205). -/
theorem test_host_fill :
    answers (hostFill 0xA5 State.reset) { State.reset with rxb := 0xA5, rxpend := true } = true ∧
      refusedWith (hostFill 0x11 { State.reset with rxpend := true }) .hostFillWhilePending = true := by decide

/-- The host's table word of `CALJ` with all operands (the first byte in bits 7 to 0). -/
theorem test_decodeTableWord : decodeTableWord 32 0x06123405 = some (.calj 0x34 0x12 0x06) := by decide

/-! ## Witnesses: the hypotheses of the statements can be met -/

/-- A state with every register set and the stack pointer clear of the register page. -/
def sample (code : List Byte) : State :=
  start 0xB 0xF0 0x0400 code [(.a, 0x34), (.b, 0x12), (.c, 0xFF), (.d, 0x2F), (.sp, 0xE0), (.w, 0x05)] [(0x1234, 0x99)]

theorem witness_DecodeEncodeRoundTrip :
    (Instr.unmapped0E 0x0F).wellFormed = true ∧ (Instr.unmappedEC 0xEC).wellFormed = true ∧
      (Instr.unmappedF0 0xFF).wellFormed = true ∧ (Instr.calj 0x34 0x12 0x06).wellFormed = true := by decide

theorem witness_EncodeDecodeRoundTrip :
    decode [0x05, 0x34, 0x12, 0x06, 0x99] = .ok (.calj 0x34 0x12 0x06, [0x99]) ∧
      decode [0xFF] = .ok (.unmappedF0 0xFF, []) := by decide

/-- One word and state for each clause: no driver, two drivers, a bad read, a reserved code at each end, a bad write,
none of them. -/
theorem witness_CycleFaultsInOrder :
    cycleWord image 0x0000 State.reset = .error .busContention ∧
      cycleWord image 0x0003 State.reset = .error .busContention ∧
      cycleWord image 0x1010 { State.reset with bsel := 4 } = .error .unsupportedPort ∧
      cycleWord image 0x1004 State.reset = .error .reservedAux ∧
      cycleWord image 0x3C04 State.reset = .error .reservedAux ∧
      cycleWord image 0x0804 { State.reset with bsel := 2 } = .error .unsupportedPort ∧
      cycleWord image 0x0804 { State.reset with bsel := 8 } =
        .ok ({ State.reset with bsel := 8, out := 0x80, ustep := 1 }, false) := by decide

/-- Each of the four drivers that is no port, with a word that completes. -/
theorem witness_CycleLoads :
    cycleWord image 0x8401 State.reset = .ok ({ State.reset with al := 0x01, ustep := 1 }, false) ∧
      cycleWord image 0x0102 { State.reset with t := 0x12 } =
        .ok ({ State.reset with t := 0x12, al := 0x12, ustep := 1 }, false) ∧
      cycleWord image 0x0C04 { State.reset with ustep := 3 } = .ok (State.reset, true) ∧
      cycleWord image 0x8208 { State.reset with ah := 0x12, al := 0xFF } =
        .ok ({ State.reset with ah := 0xFF, al := 0x00, ustep := 1 }, false) := by decide

/-- A port read into `T` that latches the select, at both ends of a frame; a port write of the bus; both in one cycle. -/
theorem witness_CycleLoads_ports :
    cycleWord image 0x4850 { State.reset with bsel := 8, rxpend := true, out := 0x02 } =
        .ok ({ State.reset with bsel := 2, rxpend := true, out := 0x02, rxn := 1, ustep := 1 }, false) ∧
      cycleWord image 0x4850 { State.reset with bsel := 8, rxpend := true, rxn := 8, rxb := 0x80 } =
        .ok ({ State.reset with bsel := 2, rxb := 0x80, t := 0x01, ustep := 1 }, false) ∧
      cycleWord image 0x0802 { State.reset with bsel := 8, t := 0xFE, out := 0x01, txb := 0xFF } =
        .ok ({ State.reset with bsel := 8, t := 0xFE, out := 0xFE, txn := 1, ustep := 1 }, false) ∧
      cycleWord image 0x0850 { State.reset with bsel := 8, txn := 8, txb := 0x80, rxidle := 255 } =
        .ok ({ State.reset with
            bsel := 8, t := 0x01, out := 0x01, txb := 0x80, txd := 0x80, txrdy := true, rxidle := 255, ustep := 1 },
          false) := by decide

theorem witness_StepRunsTheDecodedInstruction :
    (sample [0x05, 0x00, 0x05, 0x06]).atFetch = true ∧
      decode [0x05, 0x00, 0x05, 0x06] = .ok (.calj 0x00 0x05 0x06, []) ∧
      (sample [0x05, 0x00, 0x05, 0x06]).fetchInstr = .calj 0x00 0x05 0x06 := by decide

/-- The power-on regime; a slot under way; routing on. -/
theorem witness_StepFinishesTheSlot :
    State.reset.atFetch = false ∧ { sample [0x48] with ustep := 1 }.atFetch = false ∧
      { sample [0x48] with bsel := 8 }.atFetch = false := by decide

theorem witness_PlacedWordRuns :
    decodeTableWord 8 0x48 = some (.inc .a) ∧ decodeTableWord 24 0x1234B8 = some (.jmp 0x34 0x12) ∧
      State.reset.mem.wf = true := by decide

/-- An `LDP` at the pc. -/
theorem witness_CyclesOfMovesAndJumps :
    (sample [0x0D, 0x34, 0x12]).mem.wf = true ∧ (sample [0x0D, 0x34, 0x12]).atFetch = true ∧
      (sample [0x0D, 0x34, 0x12]).fetchInstr ∈
        [.nop, .brk, .skp, .ldt 0x34, .ldi .a 0x34, .ldp .cd 0x34 0x12, .mov .a .b, .unmapped0E 0x34, .unmappedEC 0x34,
          .unmappedF0 0x34, .jmp 0x34 0x12, .jz 0x34 0x12, .jnz 0x34 0x12, .jc 0x34 0x12, .jnc 0x34 0x12, .js 0x34 0x12,
          .jbe 0x34 0x12, .jae 0x34 0x12] := by decide

/-- An `STPI` at the pc. -/
theorem witness_CyclesOfMemoryAndStack :
    (sample [0x3C]).mem.wf = true ∧ (sample [0x3C]).atFetch = true ∧
      (sample [0x3C]).fetchInstr ∈
        [.ld .a .cd, .ldpi .a .cd, .st .cd .a, .stpi .cd .a, .lda .a 0x34 0x12, .sta 0x34 0x12 .a, .push .a, .pop .a,
          .pshi 0x34, .calj 0x34 0x12 0x06, .retl, .reth] := by decide

/-- An `RCL` at the pc. -/
theorem witness_CyclesOfArithmetic :
    (sample [0x60]).mem.wf = true ∧ (sample [0x60]).atFetch = true ∧
      (sample [0x60]).fetchInstr ∈
        [.inc .a, .dec .a, .incc .a, .decc .a, .shl .a, .shr .a, .rcl .a, .rcr .a, .add .a .b, .addi .a 0x34, .tst .a] := by decide

/-- A `BMX` at the pc; an `STF` of a value whose bit 3 is 1. -/
theorem witness_CyclesOfLogicAndPorts :
    (sample [0xE8, 0x6A, 0xFB]).mem.wf = true ∧ (sample [0xE8, 0x6A, 0xFB]).atFetch = true ∧
      (sample [0xE8, 0x6A, 0xFB]).fetchInstr = .bmx .a 0x6A 0xFB ∧ (sample [0xAE]).fetchInstr = .stf .c ∧
      ((sample [0xAE]).reg .c).getLsbD 3 = true := by decide

/-- A flag-dependent instruction and a missing port, at the start of a slot of the normal regime. -/
theorem witness_MicroprogramsImplementTheInstructions :
    (sample [0x60]).mem.wf = true ∧ (sample [0x60]).atFetch = true ∧ (sample [0x60]).fetchInstr = .rcl .a ∧
      (sample [0xC0]).atFetch = true ∧ (sample [0xC0]).fetchInstr = .out .p0 .a := by decide

theorem witness_NoOpsAdvanceThePc :
    (Instr.skp, (2 : Addr)) ∈ [(Instr.nop, (1 : Addr)), (.brk, 1), (.skp, 2), (.unmapped0E 0x0E, 1),
      (.unmappedEC 0x0E, 1), (.unmappedF0 0x0E, 1)] := by decide

/-- `sample` has `C` = 1, `S` = 1, `Z` = 0: a taken and a not taken jump. -/
theorem witness_JumpsFollowTheirCondition :
    let c := (sample []).flags.getLsbD 0
    let sg := (sample []).flags.getLsbD 1
    let z := (sample []).flags.getLsbD 2
    let pairs := [(Instr.jmp 0x34 0x12, true), (.jz 0x34 0x12, z), (.jnz 0x34 0x12, !z), (.jc 0x34 0x12, c),
      (.jnc 0x34 0x12, !c), (.js 0x34 0x12, sg), (.jbe 0x34 0x12, z || !c), (.jae 0x34 0x12, z || c)]
    (Instr.jbe 0x34 0x12, false) ∈ pairs ∧ (Instr.jae 0x34 0x12, true) ∈ pairs := by decide

theorem witness_ImmediateLoadsAndMoves :
    (sample [0x08, 0x5A]).mem.wf = true ∧ (sample [0x08, 0x5A]).atFetch = true := by decide

theorem witness_LoadIndirect :
    (sample [0x20]).mem.wf = true ∧ (sample [0x20]).atFetch = true ∧
      (sample [0x20]).readMem (joinBytes ((sample [0x20]).slot .b) ((sample [0x20]).slot .a)) = 0x99 := by decide

theorem witness_LoadIndirectIncrement :
    (sample [0x2A]).mem.wf = true ∧ (sample [0x2A]).atFetch = true ∧
      regSlot .c ≠ pairLow .ab ∧ regSlot .c ≠ pairHigh .ab := by decide

theorem witness_StoreIndirect :
    (sample [0x32]).mem.wf = true ∧ (sample [0x32]).atFetch = true ∧
      joinBytes ((sample [0x32]).slot .b) ((sample [0x32]).slot .a) = 0x1234 := by decide

theorem witness_StoreIndirectIncrement :
    (sample [0x3A]).mem.wf = true ∧ (sample [0x3A]).atFetch = true ∧
      (0x1234 : Addr) ≠ slotAddr (pairLow .ab) ∧ (0x1234 : Addr) ≠ slotAddr (pairHigh .ab) := by decide

theorem witness_LoadAbsolute :
    (sample [0x42, 0x34, 0x12]).mem.wf = true ∧ (sample [0x42, 0x34, 0x12]).atFetch = true ∧
      (sample [0x42, 0x34, 0x12]).readMem ((sample [0x42, 0x34, 0x12]).pc + 2) = 0x12 := by decide

theorem witness_StoreAbsolute :
    (sample [0x46, 0x34, 0x12]).mem.wf = true ∧ (sample [0x46, 0x34, 0x12]).atFetch = true ∧
      (sample [0x46, 0x34, 0x12]).readMem ((sample [0x46, 0x34, 0x12]).pc + 2) = 0x12 := by decide

theorem witness_ShiftsAndRotates :
    (sample [0x60]).mem.wf = true ∧ (sample [0x60]).atFetch = true ∧
      (sample [0x60]).flags.getLsbD 0 = true := by decide

theorem witness_BitMerge :
    (sample [0xE4]).mem.wf = true ∧ (sample [0xE4]).atFetch = true := by decide

theorem witness_TestAndFlagAccess :
    (sample [0xAE]).mem.wf = true ∧ (sample [0xAE]).atFetch = true ∧
      ((sample [0xAE]).reg .c).getLsbD 3 = true := by decide

theorem witness_ReturnJumps :
    (sample [0x07]).mem.wf = true ∧ (sample [0x07]).atFetch = true := by decide

/-- `INCC` and `DECC` with `C` = 1. -/
theorem witness_AdditionsWriteSumAndFlags :
    (sample []).mem.wf = true ∧
      let c := (sample []).flags.getLsbD 0
      let pairs := [(Instr.inc .a, (0x01 : Byte)), (.dec .a, 0xFF), (.incc .a, if c then 0x01 else 0x00),
        (.decc .a, if c then 0x00 else 0xFF), (.shl .a, (sample []).reg .a), (.add .a .b, (sample []).reg .b),
        (.addi .a 0x7F, 0x7F)]
      (Instr.incc .a, (0x01 : Byte)) ∈ pairs ∧ (Instr.decc .a, (0x00 : Byte)) ∈ pairs ∧
        (Instr.add .a .b, (0x12 : Byte)) ∈ pairs := by decide

theorem witness_LogicWritesTheResult :
    (sample []).mem.wf = true ∧
      (Instr.and .a .b, (0x10 : Byte)) ∈ [(Instr.andi .a 0x0F, (sample []).reg .a &&& 0x0F),
        (.ori .a 0x0F, (sample []).reg .a ||| 0x0F), (.and .a .b, (sample []).reg .a &&& (sample []).reg .b),
        (.or .a .b, (sample []).reg .a ||| (sample []).reg .b)] := by decide

theorem witness_PushStoresAndLowersSp :
    (sample []).mem.wf = true ∧
      (Instr.push .a, (0x34 : Byte)) ∈ [(Instr.push .a, (sample []).reg .a), (.pshi 0x04, 0x04)] ∧
      joinBytes 0xFF ((sample []).slot .sp) ≠ slotAddr .sp := by decide

theorem witness_PopRaisesSpAndLoads :
    (sample []).mem.wf = true ∧
      (Instr.retl, Slot.w) ∈ [(Instr.pop .a, regSlot .a), (.retl, .w)] := by decide

theorem witness_CallPushesAndJumps :
    (sample [0x05, 0x34, 0x12, 0x06]).mem.wf = true ∧ (sample [0x05, 0x34, 0x12, 0x06]).readMem 0x0402 = 0x12 ∧
      (sample [0x05, 0x34, 0x12, 0x06]).readMem 0x0403 = 0x06 ∧ (sample [0x05, 0x34, 0x12, 0x06]).pc = 0x0400 := by
  decide

/-- A pending byte, none, a transmitted byte that waits, none. -/
theorem witness_HostTouchesTheLatchesOnly :
    { State.reset with rxpend := true }.rxpend = true ∧ State.reset.rxpend = false ∧
      { State.reset with txrdy := true, txd := 0x41 }.txrdy = true ∧ State.reset.txrdy = false ∧
      hostDelivered { State.reset with txrdy := true, txd := 0x41 } = some 0x41 := by decide

/-- A flag writer and an instruction that writes none, both with a next state. -/
theorem witness_FlagWritersAreListed :
    answers (exec (.tst .a) (sample [0xA4])) (sample [0xA4]) = false ∧ after (sample [0xA4]) (fun _ => true) = true ∧
      (Instr.tst .a).writesFlags = true ∧ (Instr.tst .a).isStf = false ∧ after (sample [0x10]) (fun _ => true) = true ∧
      (Instr.mov .a .a).writesFlags = false := by decide

theorem witness_OnlyMissingPortsFault :
    (Instr.out .p2 .a).usesMissingPort = true ∧ (Instr.inp .a .p0).usesMissingPort = true ∧
      (Instr.outi .p1 0x77).usesMissingPort = true ∧ (Instr.out .p3 .a).usesMissingPort = false := by decide

/-- `LDP`: the high byte after the write of the low byte's slot, and elsewhere. -/
theorem witness_LoadPairImmediate :
    (sample [0x0C, 0x34, 0x12]).readMem 0x0402 = 0x12 ∧ (0x0402 : Addr) ≠ slotAddr .a ∧
      (start 0x8 0x00 0xFFF0 [0x0C, 0x34, 0x12] [] []).readMem 0xFFF2 = 0x12 ∧
      (start 0x8 0x00 0xFFF0 [0x0C, 0x34, 0x12] [] []).pc + 2 = slotAddr .a ∧
      after (start 0x8 0x00 0xFFF0 [0x0C, 0x34, 0x12] [] []) (fun t => t.slot .b == 0x34) = true := by decide

/-- A pointer at each of the saved pc bytes and below them. -/
theorem witness_pointers :
    joinBytes ((start 0x8 0x00 0x0400 [0x32] [(.a, 0xF1), (.b, 0xFF)] []).slot .b) 0xF1 = slotAddr .ph ∧
      joinBytes 0xFF 0xF0 = slotAddr .pl ∧ joinBytes 0xFF 0xF2 = slotAddr (pairLow .ab) ∧
      joinBytes 0xFF 0xF5 = slotAddr (pairHigh .cd) ∧ joinBytes 0x12 0x34 ≠ slotAddr .pl := by decide

/-- `LDA`, `STA`, `CALJ`: the operand bytes at `W` and elsewhere, the address at `W` and elsewhere. -/
theorem witness_absolute_operands :
    (sample [0x40, 0x34, 0x12]).readMem 0x0402 = 0x12 ∧
      (start 0x8 0x00 0xFFF5 [0x40, 0x34, 0x12] [] []).pc + 2 = slotAddr .w ∧
      (start 0x8 0x00 0xFFF5 [0x40, 0x34, 0x12] [] []).readMem 0xFFF7 = 0x12 ∧
      joinBytes 0xFF 0xF7 = slotAddr .w ∧ (sample [0x05, 0x34, 0x12, 0x06]).readMem 0x0403 = 0x06 ∧
      (start 0x8 0x00 0xFFF4 [0x05, 0x34, 0x12, 0x06] [] []).pc + 3 = slotAddr .w ∧
      (start 0x8 0x00 0xFFEE [0x05, 0x34, 0x12, 0x06] [] []).pc + 3 = slotAddr .ph := by decide

/-- `BMX`: the mask byte in `W` (overwritten before it is read) and elsewhere. -/
theorem witness_BitExtract :
    (sample [0xE8, 0x6A, 0xFB]).readMem 0x0402 = 0xFB ∧
      (0x0402 : Addr) ∉ [slotAddr .pl, slotAddr .ph, slotAddr .w] ∧
      after (start 0x8 0x00 0xFFF5 [0xE8, 0x6A, 0xFB] [(.a, 0x20)] []) (fun t => t.t == 0x04 && t.slot .w == 0x04) =
        true := by decide

/-- `STF` with bit 3 = 1, and the four cases with bit 3 = 0 (R245): the value keeps the bootstrap pattern; the finish
pattern; the reset pattern with an ordinary pc nibble, and with a pc nibble that is a finish pattern. -/
theorem witness_StfClearingInit :
    after (start 0x8 0x00 0x0400 [0xAC] [(.a, 0x0F)] []) (fun t => t.flags == 0xF) = true ∧
      after (start 0x8 0x00 0x0400 [0xAC] [(.a, 0x05)] []) (fun t => t.flags == 0x5 && t.pc == 0x0401) = true ∧
      after (start 0x8 0x00 0x0400 [0xAC] [(.a, 0x06)] []) (fun t => t.flags == 0xC && t.pc == 0x0000) = true ∧
      after (start 0x8 0x00 0x0400 [0xAC] [(.a, 0x00)] []) (fun t => t.flags == 0x1 && t.bsel == 7) = true ∧
      after (start 0x8 0x00 0x0405 [0xAC] [(.a, 0x00)] []) (fun t => t.flags == 0x8 && t.pc == 0x0407) = true := by
  decide +kernel

/-- A push onto the `SP` slot, onto `PL`, `PH`, and clear of the page; a pop from the `SP` slot. -/
theorem witness_stack_addresses :
    joinBytes 0xFF 0xF6 = slotAddr .sp ∧ joinBytes 0xFF 0xF0 = slotAddr .pl ∧ joinBytes 0xFF 0xF1 = slotAddr .ph ∧
      joinBytes 0xFF ((sample []).slot .sp) ≠ slotAddr .sp ∧
      after (start 0x8 0x00 0x0400 [0xB5] [(.sp, 0xF5)] []) (fun t => t.slot .b == 0xF6) = true := by decide

/-- V128: the premises on the state before the call. -/
theorem witness_CallThenReturn_before :
    (start 0x8 0x00 0x0400 [0x04, 0x04, 0x05, 0x34, 0x12, 0x06] [(.sp, 0xEF)] []).mem.wf = true ∧
      (start 0x8 0x00 0x0400 [0x04, 0x04, 0x05, 0x34, 0x12, 0x06] [(.sp, 0xEF)] []).slot .sp = 0xEF ∧
      (start 0x8 0x00 0x0400 [0x04, 0x04, 0x05, 0x34, 0x12, 0x06] [(.sp, 0xEF)] []).readMem 0x0404 = 0x12 := by decide

theorem witness_CallThenReturn_last_byte :
    (start 0x8 0x00 0x0400 [0x04, 0x04, 0x05, 0x34, 0x12, 0x06] [(.sp, 0xEF)] []).pc = 0x0400 ∧
      (start 0x8 0x00 0x0400 [0x04, 0x04, 0x05, 0x34, 0x12, 0x06] [(.sp, 0xEF)] []).readMem 0x0405 = 0x06 := by decide

/-- V128: the six code bytes stand clear of the written addresses. -/
theorem witness_CallThenReturn_code_is_clear : ∀ k ∈ ([0, 1, 2, 3, 4, 5] : List Addr),
    (0x0400 : Addr) + k ∉ [slotAddr .pl, slotAddr .ph, slotAddr .sp, slotAddr .w, joinBytes 0xFF 0xEF] := by
  intro k hk
  have small : k.toNat ≤ 5 := by
    simp only [List.mem_cons, List.not_mem_nil, or_false] at hk
    rcases hk with rfl | rfl | rfl | rfl | rfl | rfl <;> simp
  have written : [slotAddr .pl, slotAddr .ph, slotAddr .sp, slotAddr .w, joinBytes 0xFF 0xEF] =
      [0xFFF0, 0xFFF1, 0xFFF6, 0xFFF7, 0xFFEF] := by decide
  rw [written]
  simp only [List.mem_cons, List.not_mem_nil, or_false, not_or]
  refine ⟨?_, ?_, ?_, ?_, ?_⟩ <;> bv_omega

/-- V131: the premises on the state before the return, and the return. -/
theorem witness_CallThenReturn_return :
    (start 0x8 0x00 0x1234 [0x06, 0x07] [(.sp, 0xED)] [(0xFFEE, 0x06), (0xFFEF, 0x04)]).mem.wf = true ∧
      (start 0x8 0x00 0x1234 [0x06, 0x07] [(.sp, 0xED)] [(0xFFEE, 0x06), (0xFFEF, 0x04)]).readMem 0xFFEF = 0x04 ∧
      afterTwo (start 0x8 0x00 0x1234 [0x06, 0x07] [(.sp, 0xED)] [(0xFFEE, 0x06), (0xFFEF, 0x04)]) .retl .reth
        (fun t => t.pc == 0x0406 && t.slot .sp == 0xEF) = true := by decide

/-- Both halves of a call answer a next state, from every state. -/
theorem witness_CallThenReturn_answers (s : State) :
    ∃ s1 s2 : State, exec (.pshi 0x04) s = .next s1 ∧ exec (.calj 0x34 0x12 0x06) s1 = .next s2 :=
  ⟨_, _, rfl, rfl⟩

/-- V110: bit 0 of `C` to its bit 7. -/
theorem witness_BitMoveCopiesOneBit :
    (start 0x8 0x00 0x0400 [0xEA, 0x47, 0x7F, 0xE6] [(.c, 0x01)] []).readMem 0x0402 =
        ~~~((1 : Byte) <<< (7 : BitVec 3).toNat) ∧
      (0x0402 : Addr) ∉ [slotAddr .pl, slotAddr .ph, slotAddr .w] ∧
      afterTwo (start 0x8 0x00 0x0400 [0xEA, 0x47, 0x7F, 0xE6] [(.c, 0x01)] []) (.bmx .c 0x47 0x7F) (.bmw .c)
        (fun t => t.reg .c == 0x81 && t.pc == 0x0404) = true := by decide +kernel

/-- The transmit cases: a start bit, an idle line, the first and the last data bit. -/
theorem witness_PortThreeWrite :
    after { sample [0xE3, 0x00] with out := 0x01 } (fun t => t.txn == 1) = true ∧
      after (sample [0xE3, 0x00]) (fun t => t.txn == 0) = true ∧
      after { sample [0xE3, 0x01] with out := 0x01 } (fun t => t.txn == 0) = true ∧
      after { sample [0xCC] with txn := 1, txb := 0xF1 } (fun t => t.txn == 2 && t.txb == 0xF0) = true ∧
      after { sample [0xE3, 0x01] with txn := 8 } (fun t => t.txn == 0 && t.txd == 0x80 && t.txrdy) = true := by decide

/-- The receive cases: a start bit, an idle line, the first and the last data bit. -/
theorem witness_PortThreeRead :
    after { sample [0xDC] with rxpend := true, out := 0x02 } (fun t => t.rxn == 1 && t.reg .a == 0x00) = true ∧
      after { sample [0xDC] with rxidle := 255 } (fun t => t.rxidle == 255 && t.reg .a == 0x01) = true ∧
      after { sample [0xDC] with rxn := 1, rxb := 0x01 } (fun t => t.rxn == 2 && t.reg .a == 0x01) = true ∧
      after { sample [0xDC] with rxn := 8, rxb := 0x7F, rxpend := true }
        (fun t => t.rxn == 0 && t.reg .a == 0x00 && !t.rxpend) = true := by decide

/-- W5: the frame of 0x41. -/
theorem witness_TransmitFrameDeliversTheByte :
    let s := { State.reset with out := 0x01 }
    let w : Nat → Byte := fun k => if (0x41 : Byte).getLsbD k then 0x01 else 0x00
    s.txn = 0 ∧ s.out.getLsbD 0 = true ∧ (∀ k : Nat, k < 8 → (w k).getLsbD 0 = (0x41 : Byte).getLsbD k) ∧
      ((List.range 8).foldl (fun u k => u.port3Write (w k)) (s.port3Write 0x00)).txd = 0x41 := by decide

/-- W6: the frame of 0xA5. -/
theorem witness_ReceiveFrameReadsTheByte :
    let s := { State.reset with out := 0x03 }
    let s0 := { s with rxb := 0xA5, rxpend := true }
    s.rxn = 0 ∧ s.out.getLsbD 1 = true ∧ answers (hostFill 0xA5 s) s0 = true ∧
      ((List.range 9).foldl (fun (u : State) _ => u.port3Polled) s0).rxpend = false := by decide

/-- The invariant holds of `sample`, which takes a step; an instruction that is no `STF`; a flag writer and none. -/
theorem witness_StepKeepsTheInvariant : (sample [0x48]).boundaryInv ∧ after (sample [0x48]) (fun _ => true) = true := by
  unfold State.boundaryInv; decide

theorem witness_NormalRegimeIsKept :
    (sample [0x48]).atFetch = true ∧ (sample [0x48]).fetchInstr.isStf = false ∧
      (Instr.inc .a).writesFlags = true ∧ (Instr.mov .a .b).writesFlags = false ∧
      (Instr.out .p2 .a).usesMissingPort = true ∧ (Instr.out .p3 .a).usesMissingPort = false := by decide

/-- V184 to V186: the state before the faulting cycle, and the fault of that cycle. -/
theorem witness_OnlyMissingPortsFault_access :
    (start 0x8 0x00 0x0400 [0xC0] [(.a, 0x5A)] []).atFetch = true ∧
      answers (runCyclesWithHost image emptyHost 3 0 (start 0x8 0x00 0x0400 [0xC0] [(.a, 0x5A)] []))
        { start 0x8 0x5A 0x0401 [] [] [(0x0400, 0xC0), (0xFFF2, 0x5A)] with ir := 0xC0, ustep := 3, bsel := 1 } = true ∧
      faultsWith (runCyclesWithHost image emptyHost 4 0 (start 0x8 0x00 0x0400 [0xC0] [(.a, 0x5A)] []))
        .unsupportedPort = true ∧
      answers (runCyclesWithHost image emptyHost 2 0 (start 0x8 0x00 0x0400 [0xE1, 0x77] [] []))
        { start 0x8 0x77 0x0402 [] [] [(0x0400, 0xE1), (0x0401, 0x77)] with ir := 0xE1, ustep := 2, bsel := 2 } = true ∧
      faultsWith (runCyclesWithHost image emptyHost 3 0 (start 0x8 0x00 0x0400 [0xD9] [] [])) .unsupportedPort = true := by
  decide

/-- `PL`, the first register of the page, and `W`, the last. -/
theorem witness_RegistersAreBytesOfMemory :
    (sample []).mem.wf = true ∧ (Slot.pl, (0xFFF0 : Addr)) ∈ [(Slot.pl, (0xFFF0 : Addr)), (.ph, 0xFFF1)] ∧
      ((sample []).writeMem 0xFFF7 0x99).slot .w = 0x99 ∧ ((sample []).writeMem 0xFFF7 0x99).slot .sp = 0xE0 ∧
      ((sample []).writeMem 0xFFF0 0x99).slot .pl = 0x99 ∧ (sample []).pairAddr .cd = 0x2FFF := by decide

/-- Phase B in the middle of the window, and at its last byte (W4, R235, R236). -/
theorem witness_CopyLoopSlot :
    let s := { State.reset with flags := 0x4, bsel := 7, ah := 0x04, al := 0x00 }
    flagI s.flags = false ∧ flagZ s.flags = true ∧ flagS s.flags = false ∧
      slotEnd image s = .complete { s with mem := ⟨[(0x0400, 0xDE)]⟩, al := 0x01 } 3 ∧
      slotEnd image { s with flags := 0x5, ah := 0x05, al := 0xFF } =
        .complete { s with mem := ⟨[(0x05FF, 0xFF)]⟩, flags := 0x8, bsel := 0 } 16 := by decide +kernel

/-- A run of `LDT 0x07`, `BRK`, `NOP` ends with the `BRK`, after 3 + 2 cycles or two steps; with less fuel it still runs;
the fault of a missing port ends it too. -/
theorem witness_RunsEndAtBreak :
    let s := start 0x8 0x00 0x0400 [0x03, 0x07, 0x01, 0x00] [] []
    let t := { s with ir := 0x01, t := 0x07, al := 0x03 }
    runProgram image emptyHost 40 10 s = .ended t 15 ∧ runSteps 40 0 s = .ended t 2 ∧
      runProgram image emptyHost 4 0 s ≠ .ended t 5 ∧
      runProgram image emptyHost 40 0 (start 0x8 0x00 0x0400 [0xC0] [] []) = .fault .unsupportedPort 3 ∧
      s.atFetch = true ∧ { s with al := 0x02 }.fetchInstr = .brk := by decide +kernel

/-- P5's host: one fill, before the first cycle; a second one while the first is pending is refused. -/
theorem test_run_with_host :
    let s := start 0x8 0x00 0x0400 [0x01] [] []
    runProgram image (fun k _ => if k = 0 then some (.fill 0x5A) else none) 40 0 s =
        .ended { s with ir := 0x01, al := 0x01, rxb := 0x5A, rxpend := true } 2 ∧
      runProgram image (fun _ _ => some (.fill 0x5A)) 40 0 s = .refused .hostFillWhilePending 1 := by decide +kernel

end Sys2Proof.Tests
end

/-! SUPPORT. A property of states that each shared operation keeps is kept by every instruction other than `STF`: the
case analysis over the instructions, done once for every invariant of the normal regime. -/

namespace Sys2Proof.Machine

/-! ## Port 3 (`47_io_uart.md` R199, R200) -/

/-- A poll changes the receive half only. -/
theorem port3Polled_frame (s : State) :
    { s.port3Polled with rxn := s.rxn, rxidle := s.rxidle, rxpend := s.rxpend } = s := by
  unfold State.port3Polled
  split <;> split <;> rfl

/-- A write changes the output latch and the transmit half only. -/
theorem port3Write_frame (s : State) (v : Byte) :
    { s.port3Write v with out := s.out, txb := s.txb, txn := s.txn, txrdy := s.txrdy, txd := s.txd } = s := by
  unfold State.port3Write State.txShift
  split <;> split <;> rfl

/-- The successor of a bit count, as both halves of the UART form it, stays within 0 to 8. -/
theorem bitCount_succ_le (n : Nibble) (h : n.toNat ≤ 8) : (if n = 8 then 0 else n + 1).toNat ≤ 8 := by
  revert n; decide

theorem rxn_port3Polled_le {s : State} (h : s.rxn.toNat ≤ 8) : s.port3Polled.rxn.toNat ≤ 8 := by
  obtain ⟨-, hstart, hidle, hbit⟩ := receivePolled_port3 s
  by_cases h0 : s.rxn = 0
  · by_cases hs : s.rxpend = true ∧ s.out.getLsbD 1 = true
    · obtain ⟨-, hn, -⟩ := hstart h0 hs.1 hs.2
      simp [hn]
    · obtain ⟨-, hn, -⟩ :=
        hidle h0 ((not_and_or.1 hs).imp Bool.eq_false_of_not_eq_true Bool.eq_false_of_not_eq_true)
      simp [hn]
  · obtain ⟨-, -, hn, -⟩ := hbit h0
    rw [hn]
    exact bitCount_succ_le _ h

theorem txn_port3Write_le {s : State} (v : Byte) (h : s.txn.toNat ≤ 8) : (s.port3Write v).txn.toNat ≤ 8 := by
  obtain ⟨-, hstart, hidle, hbit⟩ := transmitWritten_port3 s v h
  by_cases h0 : s.txn = 0
  · by_cases hs : s.out.getLsbD 0 = true ∧ v.getLsbD 0 = false
    · obtain ⟨hn, -⟩ := hstart h0 hs.1 hs.2
      simp [hn]
    · obtain ⟨hn, -⟩ := hidle h0 ((not_and_or.1 hs).imp Bool.eq_false_of_not_eq_true Bool.eq_true_of_not_eq_false)
      simp [hn]
  · obtain ⟨-, hn, -⟩ := hbit h0
    rw [hn]
    exact bitCount_succ_le _ h

/-! ## Properties that every operation keeps -/

/-- A property that every operation an instruction is made of keeps; flags are only loaded with `I` = 1, as every
instruction but `STF` does. -/
structure SlotInvariant (P : State → Prop) : Prop where
  loadIr : ∀ {s : State} (op : Byte), P s → P { s with ir := op }
  setPc : ∀ {s : State} (hi lo : Byte), P s → P (s.setPc hi lo)
  setT : ∀ {s : State} (v : Byte), P s → P (s.setT v)
  writeMem : ∀ {s : State} (a : Addr) (v : Byte), P s → P (s.writeMem a v)
  setFlags : ∀ {s : State} {f : Nibble}, flagI f = true → P s → P (s.setFlags f)
  poll : ∀ {s : State}, P s → P s.port3Polled
  port3Write : ∀ {s : State} (v : Byte), P s → P (s.port3Write v)
  endPlain : ∀ {s : State}, P s → P s.endPlain
  endSlot : ∀ {s : State}, P s → P s.endSlot

/-- If an outcome is a next state, the state has the property. -/
def NextHas (P : State → Prop) (o : Result) : Prop := ∀ t : State, o = .next t → P t

theorem nextHas_next {P : State → Prop} {t : State} (h : P t) : NextHas P (.next t) := by
  rintro _ ⟨⟩
  exact h

theorem nextHas_fault (P : State → Prop) (f : Fault) : NextHas P (raiseFault f) := nofun

namespace SlotInvariant

variable {P : State → Prop} (hP : SlotInvariant P) {s : State}
include hP

theorem incPc (h : P s) : P s.incPc := hP.setPc _ _ h

theorem fetched (i : Instr) (h : P s) : P (s.fetched i) := hP.incPc (hP.loadIr _ h)

theorem takeOperand (v : Byte) (h : P s) : P (s.takeOperand v) := hP.incPc (hP.setT v h)

theorem setSlot (x : Slot) (v : Byte) (h : P s) : P (s.setSlot x v) := hP.writeMem _ v h

theorem takeAddress (before : State) (lo hi : Byte) (h : P s) : P (s.takeAddress before lo hi) :=
  hP.takeOperand _ (hP.setSlot _ _ (hP.takeOperand _ h))

theorem savePc (h : P s) : P s.savePc := hP.setSlot _ _ (hP.setSlot _ _ h)

theorem restorePc (h : P s) : P s.restorePc := hP.endSlot (hP.setPc _ _ h)

theorem result (x : Slot) (v : Byte) (h : P s) : P (s.result x v) := hP.setSlot x v (hP.setT v h)

theorem pushByte (v : Byte) (h : P s) : P (s.pushByte v) := hP.result _ _ (hP.writeMem _ v h)

theorem raiseSp (h : P s) : P s.raiseSp := hP.result _ _ h

theorem writeBack (p : Pair) (a : Addr) (h : P s) : P (s.writeBack p a) := hP.result _ _ (hP.result _ _ h)

theorem arithmetic (r : Reg) (v : Byte) {f : Nibble} (hf : flagI f = true) (h : P s) : P (s.arithmetic r v f) :=
  hP.restorePc (hP.result _ _ (hP.setFlags hf h))

theorem addTo (r : Reg) (k : Byte) (h : P s) : P (s.addTo r k) := hP.arithmetic _ _ (flagI_addFlags _ _) h

theorem jump (taken : Bool) (lo hi : Byte) (h : P s) : P (s.jump taken lo hi) := by
  cases taken with
  | true => exact hP.endPlain (hP.setPc _ _ (hP.setT _ h))
  | false => exact hP.endPlain (hP.incPc (hP.incPc h))

theorem sendPort (q : Port) (h : P s) : NextHas P (s.sendPort q) := by
  cases q with
  | p3 => exact nextHas_next (hP.endSlot (hP.port3Write _ h))
  | p0 | p1 | p2 => exact nextHas_fault P _

theorem execInp (r : Reg) (q : Port) (h : P s) : NextHas P (execInp r q s) := by
  cases q with
  | p3 => exact nextHas_next (hP.endSlot (hP.result _ _ (hP.poll (hP.fetched _ h))))
  | p0 | p1 | p2 => exact nextHas_fault P _

/-- Every instruction other than `STF` keeps the property. -/
theorem exec (i : Instr) (hstf : i.isStf = false) (h : P s) : NextHas P (exec i s) := by
  cases i with
  | nop | brk | unmapped0E | unmappedEC | unmappedF0 => exact nextHas_next (hP.endPlain (hP.fetched _ h))
  | skp => exact nextHas_next (hP.endPlain (hP.incPc (hP.fetched _ h)))
  | ldt imm => exact nextHas_next (hP.endPlain (hP.takeOperand _ (hP.fetched _ h)))
  | ldi r imm => exact nextHas_next (hP.endSlot (hP.setSlot _ _ (hP.takeOperand _ (hP.fetched _ h))))
  | ldp p lo hi =>
    have hlow := hP.setSlot (pairLow p) lo (hP.takeOperand lo (hP.fetched (.ldp p lo hi) h))
    exact nextHas_next (hP.endSlot (hP.setSlot _ _ (hP.takeOperand _ hlow)))
  | mov dst src => exact nextHas_next (hP.endSlot (hP.result _ _ (hP.fetched _ h)))
  | ld r p => exact nextHas_next (hP.restorePc (hP.result _ _ (hP.savePc (hP.fetched _ h))))
  | ldpi r p => exact nextHas_next (hP.restorePc (hP.writeBack _ _ (hP.result _ _ (hP.savePc (hP.fetched _ h)))))
  | st p r => exact nextHas_next (hP.restorePc (hP.writeMem _ _ (hP.savePc (hP.setT _ (hP.fetched _ h)))))
  | stpi p r =>
    have hstored := hP.savePc (hP.setT (s.reg r) (hP.fetched (.stpi p r) h))
    exact nextHas_next (hP.restorePc (hP.writeBack _ _ (hP.writeMem _ _ hstored)))
  | lda r lo hi =>
    have haddress := hP.savePc (hP.takeAddress s lo hi (hP.fetched (.lda r lo hi) h))
    exact nextHas_next (hP.restorePc (hP.result _ _ haddress))
  | sta lo hi r =>
    have haddress := hP.savePc (hP.takeAddress s lo hi (hP.fetched (.sta lo hi r) h))
    exact nextHas_next (hP.restorePc (hP.writeMem _ _ (hP.setT _ haddress)))
  | inc | dec | incc | decc | shl | add => exact nextHas_next (hP.addTo _ _ (hP.savePc (hP.fetched _ h)))
  | addi r imm => exact nextHas_next (hP.addTo _ _ (hP.savePc (hP.takeOperand _ (hP.fetched _ h))))
  | shr | rcr => exact nextHas_next (hP.arithmetic _ _ (flagI_shrFlags _) (hP.savePc (hP.fetched _ h)))
  | rcl r =>
    exact nextHas_next (hP.arithmetic _ _ (flagI_addFlags _ _) (hP.setSlot _ _ (hP.savePc (hP.fetched _ h))))
  | tst r =>
    exact nextHas_next (hP.restorePc (hP.setFlags (flagI_addFlags _ _) (hP.savePc (hP.fetched _ h))))
  | andi | ori =>
    exact nextHas_next (hP.restorePc (hP.result _ _ (hP.savePc (hP.takeOperand _ (hP.fetched _ h)))))
  | and | or | bmw | ldf => exact nextHas_next (hP.restorePc (hP.result _ _ (hP.savePc (hP.fetched _ h))))
  | bmx r xsel mask =>
    have hbit := hP.savePc (hP.takeOperand xsel (hP.fetched (.bmx r xsel mask) h))
    exact nextHas_next (hP.endSlot (hP.takeOperand _ (hP.restorePc (hP.result _ _ hbit))))
  | stf r => cases hstf
  | push r => exact nextHas_next (hP.restorePc (hP.pushByte _ (hP.savePc (hP.fetched _ h))))
  | pshi imm =>
    exact nextHas_next (hP.restorePc (hP.pushByte _ (hP.savePc (hP.takeOperand _ (hP.fetched _ h)))))
  | pop | retl =>
    exact nextHas_next (hP.restorePc (hP.result _ _ (hP.raiseSp (hP.savePc (hP.fetched _ h)))))
  | calj lo hi imm =>
    have htarget := hP.takeAddress s lo hi (hP.fetched (.calj lo hi imm) h)
    exact nextHas_next (hP.endSlot (hP.setPc _ _ (hP.pushByte _ (hP.setSlot _ _ htarget))))
  | reth => exact nextHas_next (hP.endSlot (hP.setPc _ _ (hP.raiseSp (hP.fetched _ h))))
  | jmp | jz | jnz | jc | jnc | js | jbe | jae => exact nextHas_next (hP.jump _ _ _ (hP.fetched _ h))
  | out q r => exact hP.sendPort q (hP.setT _ (hP.fetched _ h))
  | inp r q => exact hP.execInp r q h
  | outi q imm => exact hP.sendPort q (hP.takeOperand _ (hP.fetched _ h))

end SlotInvariant

/-! ## The start of a slot of the normal regime -/

theorem State.atFetch_iff {s : State} :
    s.atFetch = true ↔ flagI s.flags = true ∧ s.ustep = 0 ∧ s.route = false := by
  simp [State.atFetch, and_assoc]

theorem State.route_of_bsel_zero {s : State} (h : s.bsel = 0) : s.route = false := by simp [State.route, h]

theorem step_of_atFetch {s : State} (h : s.atFetch = true) : step s = exec s.fetchInstr s := if_pos h

theorem step_of_not_atFetch {s : State} (h : s.atFetch = false) : step s = runSlot Config.bootImage s := by
  simp [step, h]

/-- `FLAGS`, `STEP` and `BSEL` decide whether a state is at a fetch. -/
theorem State.atFetch_congr {s t : State} (hf : t.flags = s.flags) (hu : t.ustep = s.ustep) (hb : t.bsel = s.bsel) :
    t.atFetch = s.atFetch := by
  unfold State.atFetch State.route
  rw [hf, hu, hb]

theorem slotInvariant_atFetch : SlotInvariant (fun s => s.atFetch = true) where
  loadIr _ h := h
  setPc _ _ h := h
  setT _ h := h
  writeMem _ _ h := h
  setFlags hf h := by
    obtain ⟨-, hu, hr⟩ := State.atFetch_iff.1 h
    exact State.atFetch_iff.2 ⟨hf, hu, hr⟩
  poll {s} h := by
    have hs := port3Polled_frame s
    exact (State.atFetch_congr (congrArg State.flags hs) (congrArg State.ustep hs) (congrArg State.bsel hs)).trans h
  port3Write {s} v h := by
    have hs := port3Write_frame s v
    exact (State.atFetch_congr (congrArg State.flags hs) (congrArg State.ustep hs) (congrArg State.bsel hs)).trans h
  endPlain h := by
    obtain ⟨hi, -, hr⟩ := State.atFetch_iff.1 h
    exact State.atFetch_iff.2 ⟨hi, rfl, hr⟩
  endSlot h := by
    obtain ⟨hi, -, -⟩ := State.atFetch_iff.1 h
    exact State.atFetch_iff.2 ⟨hi, rfl, State.route_of_bsel_zero rfl⟩

/-- Settles O58: being at a fetch is a property that every shared operation keeps. -/
theorem normalRegimeIsKept : Obligations.NormalRegimeIsKept := by
  intro s t hs hi ht
  rw [step_of_atFetch hs] at ht
  exact slotInvariant_atFetch.exec _ hi hs t ht

end Sys2Proof.Machine

/-! SUPPORT. The invariant of slot boundaries is kept by every step: by the instructions of the normal regime, and by
the cycles of a slot under the power-on tables. -/

namespace Sys2Proof.Machine

/-! ## The bounds of memory and of the UART counts -/

/-- The part of the invariant that speaks of stored values: memory in canonical form and the UART bit counts in 0 to 8
(`10_state.md` R10). -/
structure State.StorageInv (s : State) : Prop where
  wf : s.mem.wf = true
  txn : s.txn.toNat ≤ 8
  rxn : s.rxn.toNat ≤ 8

theorem slotInvariant_storageInv : SlotInvariant State.StorageInv where
  loadIr _ h := ⟨h.wf, h.txn, h.rxn⟩
  setPc _ _ h := ⟨h.wf, h.txn, h.rxn⟩
  setT _ h := ⟨h.wf, h.txn, h.rxn⟩
  writeMem a v h := ⟨wf_writeMem h.wf a v, h.txn, h.rxn⟩
  setFlags _ h := ⟨h.wf, h.txn, h.rxn⟩
  poll {s} h := by
    have hmem : s.port3Polled.mem = s.mem := (congrArg State.mem (port3Polled_frame s) :)
    obtain ⟨-, -, htxn, -⟩ := transmitKept_port3Polled s
    exact ⟨hmem ▸ h.wf, htxn ▸ h.txn, rxn_port3Polled_le h.rxn⟩
  port3Write {s} v h := by
    have hmem : (s.port3Write v).mem = s.mem := (congrArg State.mem (port3Write_frame s v) :)
    obtain ⟨-, hrxn, -⟩ := receiveKept_port3Write s v
    exact ⟨hmem ▸ h.wf, txn_port3Write_le v h.txn, hrxn ▸ h.rxn⟩
  endPlain h := ⟨h.wf, h.txn, h.rxn⟩
  endSlot h := ⟨h.wf, h.txn, h.rxn⟩

theorem State.boundaryInv.storageInv {s : State} (h : s.boundaryInv) : s.StorageInv := by
  obtain ⟨hwf, -, -, htxn, hrxn, -⟩ := h
  exact ⟨hwf, htxn, hrxn⟩

/-- In the normal regime the invariant asks nothing of `IR`. -/
theorem boundaryInv_of_atFetch {s : State} (hf : s.atFetch = true) (h : s.StorageInv) : s.boundaryInv := by
  obtain ⟨hi, hu, hr⟩ := State.atFetch_iff.1 hf
  exact ⟨h.wf, hu, hr, h.txn, h.rxn, fun hn => absurd (hi.symm.trans hn) (by decide)⟩

/-! ## Rows that the power-on regime can run -/

/-- A row that accesses no port, loads no opcode and latches no routing select. -/
def MicroOp.isInternal (m : MicroOp) : Bool :=
  m.source != .io &&
    match m.select with
    | .none | .rst => true
    | .latch b => !b.getLsbD 3
    | .ir | .io => false

section
variable {m : MicroOp} (h : m.isInternal = true)
include h

theorem source_ne_io_of_isInternal : m.source ≠ .io := by
  simp only [MicroOp.isInternal, Bool.and_eq_true, bne_iff_ne] at h
  exact h.1

theorem select_ne_io_of_isInternal : m.select ≠ .io := by
  intro e
  simp [MicroOp.isInternal, e] at h

theorem select_ne_ir_of_isInternal : m.select ≠ .ir := by
  intro e
  simp [MicroOp.isInternal, e] at h

/-- Routing stays off, since a latched select has bit 3 = 0. -/
theorem route_afterRow_of_isInternal {s : State} (bus : Byte) (hs : s.route = false) :
    (s.afterRow m bus).route = false := by
  obtain ⟨source, loads, select, inc⟩ := m
  cases select with
  | latch b =>
    simp only [MicroOp.isInternal, Bool.and_eq_true, Bool.not_eq_true'] at h
    exact h.2
  | none | ir | io | rst => exact hs

end

theorem powerOnReset_isInternal (step : Nibble) : (powerOnReset step).isInternal = true := by revert step; decide

theorem powerOnBootstrap_isInternal (step : Nibble) : (powerOnBootstrap step).isInternal = true := by
  revert step; decide

theorem powerOnFinish_isInternal (step : Nibble) : (powerOnFinish step).isInternal = true := by revert step; decide

theorem powerOn_isInternal (flags step : Nibble) : (powerOn flags step).isInternal = true := by
  unfold powerOn
  split
  · split
    · exact powerOnFinish_isInternal step
    · exact powerOnBootstrap_isInternal step
  · exact powerOnReset_isInternal step

/-- No phase of the power-on microprogram loads `FLAGS` in its first cycle. -/
theorem flags_not_mem_powerOn_zero (flags : Nibble) : Load.flags ∉ (powerOn flags 0).loads := by revert flags; decide

/-- Past the row that routes to the register, the rows of `STF` are internal. -/
theorem stfOps_isInternal (r : Reg) (step : Nibble) (h : 2 ≤ step.toNat) :
    ((stfOps r).getD (step.toNat - 1) idleOp).isInternal = true := by
  cases r <;> (revert step; decide)

theorem decodeOpcode_of_isStfOpcode {op : Byte} (h : isStfOpcode op = true) : decodeOpcode op = .stf (fieldRR op) := by
  revert op; decide

theorem isStfOpcode_stf (r : Reg) : isStfOpcode (Instr.stf r).opcode = true := by cases r <;> rfl

/-! ## A slot under the power-on tables (`70_reset_and_hazards.md` R233, R245) -/

/-- What holds in every cycle of a slot of the power-on regime. The regime may be left within the slot, by a load of
`FLAGS` after the first cycle; the slot then goes on in the rows of `NOP` or `STF` from microstep 2 at the earliest. -/
structure State.PowerOnInv (s : State) : Prop where
  storage : s.StorageInv
  route : s.route = false
  ir : s.ir = 0x00 ∨ isStfOpcode s.ir = true
  late : flagI s.flags = true → 2 ≤ s.ustep.toNat

theorem ucodeRow_isInternal {s : State} (h : s.PowerOnInv) : (ucodeRow s.flags s.ustep s.ir).isInternal = true := by
  unfold ucodeRow
  split
  case isFalse => exact powerOn_isInternal _ _
  case isTrue hi =>
    have hlate := h.late hi
    have hstep : s.ustep ≠ 0 := by
      intro e
      simp [e] at hlate
    rw [if_neg hstep]
    rcases h.ir with hnop | hstf
    · rw [hnop]; rfl
    · rw [decodeOpcode_of_isStfOpcode hstf]
      exact stfOps_isInternal _ _ hlate

theorem ustep_ne_zero_of_loads_flags {s : State} (h : s.PowerOnInv)
    (hl : Load.flags ∈ (ucodeRow s.flags s.ustep s.ir).loads) : s.ustep ≠ 0 := by
  intro e
  by_cases hi : flagI s.flags = true
  · simpa [e] using h.late hi
  · rw [ucodeRow, if_neg hi, e] at hl
    exact flags_not_mem_powerOn_zero _ hl

theorem storageInv_afterRow {s : State} (h : s.StorageInv) (m : MicroOp) (bus : Byte) :
    (s.afterRow m bus).StorageInv where
  wf := by
    simp only [State.afterRow]
    split
    · exact Memory.wf_write _ _ h.wf
    · exact h.wf
  txn := h.txn
  rxn := h.rxn

theorem ir_afterRow {m : MicroOp} (s : State) (bus : Byte) (h : m.select ≠ .ir) : (s.afterRow m bus).ir = s.ir :=
  if_neg h

theorem ustep_afterRow {m : MicroOp} (s : State) (bus : Byte) (h : m.select ≠ .rst) :
    (s.afterRow m bus).ustep = s.ustep + 1 :=
  if_neg h

section
variable {s : State} {m : MicroOp} (h : s.PowerOnInv) (hm : ucodeRow s.flags s.ustep s.ir = m) (bus : Byte)
include h hm

/-- A cycle that ends the slot leaves a slot boundary. -/
theorem boundaryInv_afterRow (hend : (s.afterRow m bus).ustep = 0) : (s.afterRow m bus).boundaryInv := by
  have hin : m.isInternal = true := hm ▸ ucodeRow_isInternal h
  obtain ⟨hwf, htxn, hrxn⟩ := storageInv_afterRow h.storage m bus
  refine ⟨hwf, hend, route_afterRow_of_isInternal hin bus h.route, htxn, hrxn, fun _ => ?_⟩
  rw [ir_afterRow s bus (select_ne_ir_of_isInternal hin)]
  exact h.ir

/-- A cycle that does not end the slot keeps what holds in it. -/
theorem powerOnInv_afterRow (hrst : m.select ≠ .rst) (hwrap : s.ustep ≠ 15) : (s.afterRow m bus).PowerOnInv where
  storage := storageInv_afterRow h.storage m bus
  route := route_afterRow_of_isInternal (hm ▸ ucodeRow_isInternal h) bus h.route
  ir := by
    rw [ir_afterRow s bus (select_ne_ir_of_isInternal (hm ▸ ucodeRow_isInternal h))]
    exact h.ir
  late hi := by
    have hpos : 1 ≤ s.ustep.toNat := by
      by_cases hl : Load.flags ∈ m.loads
      · have := ustep_ne_zero_of_loads_flags h (hm ▸ hl)
        bv_omega
      · have hs : flagI s.flags = true := by simpa only [State.afterRow, if_neg hl] using hi
        exact le_trans (by decide) (h.late hs)
    rw [ustep_afterRow s bus hrst]
    bv_omega

end

/-- The slot completes within the fuel that microstep 15 is away, at a slot boundary (`41_cycle.md` R118). -/
theorem slotLoop_of_powerOnInv (img : BootImage) (fuel : Nat) :
    ∀ (done : Nat) (s : State), s.PowerOnInv → 16 ≤ s.ustep.toNat + fuel →
      ∃ (t : State) (n : Nat), slotLoop img fuel done s = .complete t n ∧ t.boundaryInv := by
  induction fuel with
  | zero =>
    intro done s _ hfuel
    have := s.ustep.isLt
    omega
  | succ fuel ih =>
    intro done s h hfuel
    obtain ⟨m, hm⟩ : ∃ m, ucodeRow s.flags s.ustep s.ir = m := ⟨_, rfl⟩
    have hin : m.isInternal = true := hm ▸ ucodeRow_isInternal h
    have hsource := source_ne_io_of_isInternal hin
    have hselect := select_ne_io_of_isInternal hin
    by_cases hrst : m.select = .rst
    · exact ⟨_, _, slotLoop_rst img fuel done s hm hsource hrst, boundaryInv_afterRow h hm _ (if_pos hrst)⟩
    by_cases hwrap : s.ustep = 15
    · refine ⟨_, _, slotLoop_wrap img fuel done s hm hsource hselect hwrap, boundaryInv_afterRow h hm _ ?_⟩
      rw [ustep_afterRow s _ hrst, hwrap]
      rfl
    · rw [slotLoop_row img fuel done s hm hsource hselect hrst hwrap]
      refine ih _ _ (powerOnInv_afterRow h hm _ hrst hwrap) ?_
      rw [ustep_afterRow s _ hrst]
      bv_omega

theorem boundaryInv_of_runSlot {img : BootImage} {s t : State} (h : s.PowerOnInv) (ht : runSlot img s = .next t) :
    t.boundaryInv := by
  obtain ⟨u, n, hu, hinv⟩ := slotLoop_of_powerOnInv img 16 0 s h (Nat.le_add_left _ _)
  rw [runSlot, slotEnd, hu] at ht
  cases ht
  exact hinv

/-! ## The three kinds of step -/

/-- A boundary that is no fetch of the normal regime is one of the power-on regime. -/
theorem powerOnInv_of_boundaryInv {s : State} (h : s.boundaryInv) (hf : s.atFetch = false) : s.PowerOnInv := by
  have hstorage := h.storageInv
  obtain ⟨-, hu, hr, -, -, hir⟩ := h
  have hi : flagI s.flags = false := by simpa [State.atFetch, hu, hr] using hf
  exact ⟨hstorage, hr, hir hi, fun hn => absurd (hi.symm.trans hn) (by decide)⟩

/-- The state in which an `STF` that clears `I` goes on under the power-on tables (`70_reset_and_hazards.md` R245). -/
theorem powerOnInv_stf {s : State} (h : s.StorageInv) (r : Reg) (f : Nibble) :
    State.PowerOnInv { (s.fetched (.stf r)).setFlags f with bsel := 0, ustep := 3 } where
  storage := ⟨h.wf, h.txn, h.rxn⟩
  route := State.route_of_bsel_zero rfl
  ir := .inr (isStfOpcode_stf r)
  late _ := show 2 ≤ (3 : Nibble).toNat by decide

/-- `STF` ends its slot when it leaves `I` = 1; else the slot goes on under the power-on tables. -/
theorem exec_stf (r : Reg) (s : State) :
    exec (.stf r) s =
      if flagI (busFlags (s.reg r)) then .next ((s.fetched (.stf r)).setFlags (busFlags (s.reg r))).endSlot
      else runSlot Config.bootImage
        { (s.fetched (.stf r)).setFlags (busFlags (s.reg r)) with bsel := 0, ustep := 3 } := rfl

theorem exec_stf_keeps_boundaryInv {s t : State} {r : Reg} (hf : s.atFetch = true) (h : s.StorageInv)
    (ht : exec (.stf r) s = .next t) : t.boundaryInv := by
  rw [exec_stf] at ht
  split at ht
  case isTrue hi =>
    cases ht
    have key {P : State → Prop} (hP : SlotInvariant P) (hs : P s) :
        P ((s.fetched (.stf r)).setFlags (busFlags (s.reg r))).endSlot :=
      hP.endSlot (hP.setFlags hi (hP.fetched _ hs))
    exact boundaryInv_of_atFetch (key slotInvariant_atFetch hf) (key slotInvariant_storageInv h)
  case isFalse => exact boundaryInv_of_runSlot (powerOnInv_stf h r _) ht

theorem exec_keeps_boundaryInv {i : Instr} {s t : State} (hf : s.atFetch = true) (h : s.StorageInv)
    (ht : exec i s = .next t) : t.boundaryInv := by
  cases hi : i.isStf with
  | false =>
    exact boundaryInv_of_atFetch (slotInvariant_atFetch.exec i hi hf t ht) (slotInvariant_storageInv.exec i hi h t ht)
  | true =>
    cases i with
    | stf r => exact exec_stf_keeps_boundaryInv hf h ht
    | _ => cases hi

/-- Settles O56: an instruction of the normal regime keeps both halves of the invariant, and a slot of the power-on
regime, or one that `STF` drops into it, runs rows that are internal up to its last cycle. -/
theorem stepKeepsTheInvariant : Obligations.StepKeepsTheInvariant := by
  intro s t h ht
  cases hf : s.atFetch with
  | true =>
    rw [step_of_atFetch hf] at ht
    exact exec_keeps_boundaryInv hf h.storageInv ht
  | false =>
    rw [step_of_not_atFetch hf] at ht
    exact boundaryInv_of_runSlot (powerOnInv_of_boundaryInv h hf) ht

end Sys2Proof.Machine

/-! SUPPORT. The logical registers as bytes of memory (`10_state.md` R11 to R13). -/

namespace Sys2Proof.Machine

/-- A list whose every entry pairs a slot with its address. -/
theorem eq_slotAddr_of_mem {places : List (Slot × Addr)} {x : Slot} {a : Addr}
    (hplaces : ∀ p ∈ places, p.2 = slotAddr p.1) (h : (x, a) ∈ places) : a = slotAddr x :=
  hplaces (x, a) h

/-- A register read outside the written slot is as before. -/
theorem slot_writeMem_slotAddr_ne (s : State) {x y : Slot} (v : Byte) (h : y ≠ x) :
    (s.writeMem (slotAddr x) v).slot y = s.slot y :=
  readMem_writeMem_ne s v (mt slotAddr_inj.1 h)

theorem memoryKept_writeMem (s : State) (a : Addr) (v : Byte) : MemoryKept s (s.writeMem a v) [a] :=
  fun _ hb => readMem_writeMem_ne s v (List.ne_of_not_mem_cons hb)

/-- Settles O11: the places by evaluation, the write by the rules for a read after a write. -/
theorem registersAreBytesOfMemory : Obligations.RegistersAreBytesOfMemory := by
  refine ⟨by decide, fun s => ⟨rfl, rfl, rfl, rfl, rfl, rfl⟩, fun s x a v hwf hmem => ?_⟩
  obtain rfl : a = slotAddr x := eq_slotAddr_of_mem (by decide) hmem
  have hread : (s.writeMem (slotAddr x) v).readMem (slotAddr x) = v := by simp [readMem_writeMem hwf]
  exact ⟨rfl, rfl, hread, hread, memoryKept_writeMem s _ v, fun y hy => slot_writeMem_slotAddr_ne s v hy,
    wf_writeMem hwf _ v, rfl⟩

end Sys2Proof.Machine

/-! SUPPORT. One clock cycle under any control word that does not fault, stage by stage: the bus, the loads, the port
write, the microstep advance (`41_cycle.md` R112 to R118). -/

namespace Sys2Proof.Machine

/-! ## The control word -/

/-- A driver is the source of the bus exactly when the output-enable bits are its own alone. -/
theorem wordSource_eq_some_iff {w : ControlWord} {source : BusSource} :
    wordSource w = some source ↔ w.extractLsb' 0 5 = source.bits.extractLsb' 0 5 := by
  unfold wordSource
  generalize w.extractLsb' 0 5 = enables
  cases source <;> (revert enables; decide)

theorem wordAux_iff {w : ControlWord} {code : Nibble} :
    wordAux w code = true ↔ w.getLsbD 14 = false ∧ w.extractLsb' 10 4 = code := by
  simp [wordAux, wordLatches, wordField]

/-! ## The two halves of the UART -/

theorem TransmitKept.trans {s u t : State} (h : TransmitKept s u) (k : TransmitKept u t) : TransmitKept s t := by
  obtain ⟨hout, htxb, htxn, htxrdy, htxd⟩ := h
  obtain ⟨kout, ktxb, ktxn, ktxrdy, ktxd⟩ := k
  exact ⟨kout.trans hout, ktxb.trans htxb, ktxn.trans htxn, ktxrdy.trans htxrdy, ktxd.trans htxd⟩

theorem ReceiveKept.trans {s u t : State} (h : ReceiveKept s u) (k : ReceiveKept u t) : ReceiveKept s t := by
  obtain ⟨hrxb, hrxn, hrxidle, hrxpend⟩ := h
  obtain ⟨krxb, krxn, krxidle, krxpend⟩ := k
  exact ⟨krxb.trans hrxb, krxn.trans hrxn, krxidle.trans hrxidle, krxpend.trans hrxpend⟩

/-- What follows a poll in the same cycle does not show in it. -/
theorem ReceivePolled.trans_kept {s u t : State} {v : Byte} (h : ReceivePolled s u v) (k : ReceiveKept u t) :
    ReceivePolled s t v := by
  obtain ⟨krxb, krxn, krxidle, krxpend⟩ := k
  unfold ReceivePolled at h ⊢
  rwa [krxb, krxn, krxidle, krxpend]

/-- What goes before a port write in the same cycle does not show in it. -/
theorem TransmitKept.trans_written {s u t : State} {v : Byte} (h : TransmitKept s u) (k : TransmitWritten u t v) :
    TransmitWritten s t v := by
  obtain ⟨hout, htxb, htxn, htxrdy, htxd⟩ := h
  unfold TransmitWritten at k ⊢
  rwa [hout, htxb, htxn, htxrdy, htxd] at k

/-- What follows a port write in the same cycle does not show in it. -/
theorem TransmitWritten.trans_kept {s u t : State} {v : Byte} (h : TransmitWritten s u v) (k : TransmitKept u t) :
    TransmitWritten s t v := by
  obtain ⟨kout, ktxb, ktxn, ktxrdy, ktxd⟩ := k
  unfold TransmitWritten at h ⊢
  rwa [kout, ktxb, ktxn, ktxrdy, ktxd]

/-! ## The state without its port -/

/-- A state with the output latch and the UART cleared: what a cycle loads other than by a port. -/
def State.core (s : State) : State :=
  { s with out := 0, txb := 0, txn := 0, txrdy := false, txd := 0, rxb := 0, rxn := 0, rxidle := 0, rxpend := false }

theorem core_port3Polled (s : State) : s.port3Polled.core = s.core :=
  (congrArg State.core (port3Polled_frame s) :)

theorem core_port3Write (s : State) (v : Byte) : (s.port3Write v).core = s.core :=
  (congrArg State.core (port3Write_frame s v) :)

/-! ## The bus (`41_cycle.md` R112, R114) -/

/-- Port 3 is the one port whose read does not fault. -/
theorem ioRead_ok {s u : State} {v : Byte} (h : s.ioRead = .ok (v, u)) : v = s.port3Value ∧ u = s.port3Polled := by
  unfold State.ioRead at h
  split at h
  · cases h
  · rename_i q _
    cases q with
    | p3 => cases h; exact ⟨rfl, rfl⟩
    | p0 | p1 | p2 => cases h

/-- A driver that is no port gives its value and leaves the state; the port gives its poll. -/
theorem drive_ok {img : BootImage} {s u : State} {source : BusSource} {bus : Byte}
    (h : s.drive img source = .ok (bus, u)) :
    source ≠ .io ∧ bus = s.busValue img source ∧ u = s ∨
      source = .io ∧ bus = s.port3Value ∧ u = s.port3Polled := by
  cases source with
  | io => exact .inr ⟨rfl, ioRead_ok h⟩
  | mem | temp | const | alu => cases h; exact .inl ⟨nofun, rfl, rfl⟩

section
variable {img : BootImage} {s u : State} {source : BusSource} {bus : Byte} (h : s.drive img source = .ok (bus, u))
include h

theorem core_of_drive : u.core = s.core := by
  obtain ⟨-, -, rfl⟩ | ⟨-, -, rfl⟩ := drive_ok h
  · rfl
  · exact core_port3Polled s

theorem transmitKept_of_drive : TransmitKept s u := by
  obtain ⟨-, -, rfl⟩ | ⟨-, -, rfl⟩ := drive_ok h
  · exact ⟨rfl, rfl, rfl, rfl, rfl⟩
  · exact transmitKept_port3Polled s

theorem busValue_of_drive (hsource : source ≠ .io) : bus = s.busValue img source := by
  obtain ⟨-, hbus, -⟩ | ⟨hio, -⟩ := drive_ok h
  · exact hbus
  · exact absurd hio hsource

theorem receiveKept_of_drive (hsource : source ≠ .io) : ReceiveKept s u := by
  obtain ⟨-, -, rfl⟩ | ⟨hio, -⟩ := drive_ok h
  · exact ⟨rfl, rfl, rfl, rfl⟩
  · exact absurd hio hsource

theorem receivePolled_of_drive (hsource : source = .io) : ReceivePolled s u bus := by
  obtain ⟨hio, -⟩ | ⟨-, rfl, rfl⟩ := drive_ok h
  · exact absurd hsource hio
  · exact receivePolled_port3 s

end

/-! ## The loads, the port write and the advance (`41_cycle.md` R115 to R118) -/

/-- The loads of a cycle other than a port write. -/
def State.loaded (s : State) (w : ControlWord) (bus : Byte) : State := (s.loadRegisters w bus).loadAddress w bus

theorem uartKept_loaded (s : State) (w : ControlWord) (bus : Byte) : UartKept s (s.loaded w bus) :=
  ⟨⟨rfl, rfl, rfl, rfl, rfl⟩, rfl, rfl, rfl, rfl⟩

theorem core_loaded (s : State) (w : ControlWord) (bus : Byte) : (s.loaded w bus).core = s.core.loaded w bus := rfl

/-- The increment is of no account where the bus loads `AL` (R116). -/
theorem al_loaded (s : State) (w : ControlWord) (bus : Byte) :
    (s.loaded w bus).al = if w.getLsbD 8 then bus else if w.getLsbD 15 then s.al + 1 else s.al := by
  simp only [State.loaded, State.loadAddress, State.loadRegisters, wordIncs]
  cases w.getLsbD 8 <;> simp only [Bool.not_false, Bool.and_true, if_true, Bool.false_eq_true, if_false]

/-- `AH` takes the carry of an increment that no load suppresses (R116). -/
theorem ah_loaded (s : State) (w : ControlWord) (bus : Byte) :
    (s.loaded w bus).ah = if w.getLsbD 9 then bus
      else if w.getLsbD 15 = true ∧ w.getLsbD 8 = false ∧ s.al = 0xFF then s.ah + 1 else s.ah := by
  simp [State.loaded, State.loadAddress, State.loadRegisters, wordIncs, and_assoc]

/-- The write of port 3, in a cycle whose word asks for one. -/
def State.portLoaded (s : State) (w : ControlWord) (bus : Byte) : State :=
  if wordAux w 2 then s.port3Write bus else s

theorem core_portLoaded (s : State) (w : ControlWord) (bus : Byte) : (s.portLoaded w bus).core = s.core := by
  unfold State.portLoaded
  split
  · exact core_port3Write s bus
  · rfl

theorem receiveKept_portLoaded (s : State) (w : ControlWord) (bus : Byte) : ReceiveKept s (s.portLoaded w bus) := by
  unfold State.portLoaded
  split
  · exact receiveKept_port3Write s bus
  · exact ⟨rfl, rfl, rfl, rfl⟩

theorem transmitWritten_portLoaded {s : State} {w : ControlWord} (bus : Byte) (hw : wordAux w 2 = true)
    (h : s.txn.toNat ≤ 8) : TransmitWritten s (s.portLoaded w bus) bus := by
  rw [State.portLoaded, if_pos hw]
  exact transmitWritten_port3 s bus h

theorem portLoaded_of_not_writes {s : State} {w : ControlWord} (bus : Byte) (hw : ¬wordAux w 2 = true) :
    s.portLoaded w bus = s :=
  if_neg hw

/-- Port 3 is the one port whose write does not fault. -/
theorem ioWrite_ok {s u : State} {code : Nibble} {v : Byte} (h : s.ioWrite code v = .ok u) : u = s.port3Write v := by
  unfold State.ioWrite at h
  split at h
  · cases h
  · rename_i q _
    cases q with
    | p3 => cases h; rfl
    | p0 | p1 | p2 => cases h

theorem advance_eq (s : State) (w : ControlWord) :
    s.advance w = ({ s with ustep := if wordAux w 3 then 0 else s.ustep + 1 }, wordAux w 3 || s.ustep == 15) := by
  unfold State.advance
  cases wordAux w 3 <;> rfl

theorem uartKept_advance (s : State) (w : ControlWord) : UartKept s (s.advance w).1 := by
  rw [advance_eq]
  exact ⟨⟨rfl, rfl, rfl, rfl, rfl⟩, rfl, rfl, rfl, rfl⟩

theorem core_advance (s : State) (w : ControlWord) : (s.advance w).1.core = (s.core.advance w).1 := by
  rw [advance_eq, advance_eq]
  rfl

theorem complete_core_advance (s : State) (w : ControlWord) : (s.core.advance w).2 = (s.advance w).2 := by
  rw [advance_eq, advance_eq]
  rfl

/-! ## The whole cycle -/

/-- The stages of a cycle that does not fault. -/
theorem cycleWord_ok {img : BootImage} {w : ControlWord} {s : State} {r : State × Bool}
    (h : cycleWord img w s = .ok r) :
    ∃ (source : BusSource) (bus : Byte) (u : State), wordSource w = some source ∧
      s.drive img source = .ok (bus, u) ∧ r = ((u.loaded w bus).portLoaded w bus).advance w := by
  unfold cycleWord at h
  split at h
  · cases h
  next source hsource =>
    split at h
    · cases h
    next bus u hdrive =>
      refine ⟨source, bus, u, hsource, hdrive, ?_⟩
      split at h
      · cases h
      · dsimp only at h
        split at h
        next hwrites =>
          split at h
          · cases h
          next written hwrite =>
            cases h
            rw [ioWrite_ok hwrite, State.portLoaded, if_pos hwrites]
            rfl
        next hwrites =>
          cases h
          rw [portLoaded_of_not_writes bus hwrites]
          rfl

section
variable {img : BootImage} {w : ControlWord} {s u t : State} {complete : Bool} {source : BusSource} {bus : Byte}
  (hdrive : s.drive img source = .ok (bus, u))
  (ht : (t, complete) = ((u.loaded w bus).portLoaded w bus).advance w)
include ht

/-- After the poll a cycle leaves the receive half alone. -/
theorem receiveKept_of_stages : ReceiveKept u t := by
  have hadvance := (uartKept_advance ((u.loaded w bus).portLoaded w bus) w).2
  rw [← ht] at hadvance
  exact ((uartKept_loaded u w bus).2.trans (receiveKept_portLoaded _ w bus)).trans hadvance

include hdrive

/-- A cycle does to the transmit half what its port write does to that of the state before the cycle. -/
theorem transmit_of_stages :
    (wordAux w 2 = true → s.txn.toNat ≤ 8 → TransmitWritten s t bus) ∧ (¬wordAux w 2 = true → TransmitKept s t) := by
  have hbefore : TransmitKept s (u.loaded w bus) := (transmitKept_of_drive hdrive).trans (uartKept_loaded u w bus).1
  have hadvance := (uartKept_advance ((u.loaded w bus).portLoaded w bus) w).1
  rw [← ht] at hadvance
  refine ⟨fun hw htxn => ?_, fun hw => ?_⟩
  · have ⟨_, _, hcount, _⟩ := hbefore
    exact (hbefore.trans_written (transmitWritten_portLoaded bus hw (hcount ▸ htxn))).trans_kept hadvance
  · rw [portLoaded_of_not_writes bus hw] at hadvance
    exact hbefore.trans hadvance

/-- Outside the port a cycle does what its loads and its advance do to the state before the cycle. -/
theorem core_of_stages : (t.core, complete) = (s.core.loaded w bus).advance w := by
  have hcore : ((u.loaded w bus).portLoaded w bus).core = s.core.loaded w bus := by
    rw [core_portLoaded, core_loaded, core_of_drive hdrive]
  rw [Prod.ext_iff] at ht ⊢
  obtain ⟨hstate, hcomplete⟩ := ht
  refine ⟨?_, ?_⟩
  · rw [← hcore, ← core_advance, ← hstate]
  · rw [← hcore, complete_core_advance, ← hcomplete]

end

/-- Settles O14: the bus from the driver, each half of the UART from its own stage, and every other field from the loads
and the advance, which see nothing of the port. -/
theorem cycleLoads : Obligations.CycleLoads := by
  intro img w s t complete h route sel maddr enables latches code writesPort
  obtain ⟨source, bus, u, hsource, hdrive, ht⟩ := cycleWord_ok h
  have source_of {d : BusSource} (he : enables = d.bits.extractLsb' 0 5) : source = d :=
    Option.some.inj (hsource.symm.trans (wordSource_eq_some_iff.2 he))
  have hvalue {d : BusSource} (hd : d ≠ .io) (he : enables = d.bits.extractLsb' 0 5) : bus = s.busValue img d := by
    obtain rfl := source_of he
    exact busValue_of_drive hdrive hd
  have hnotIo (he : enables ≠ 0b10000#5) : source ≠ .io := by
    rintro rfl
    exact he (wordSource_eq_some_iff.1 hsource)
  have hreceive : ReceiveKept u t := receiveKept_of_stages ht
  obtain ⟨hwritten, hkept⟩ := transmit_of_stages hdrive ht
  have hcore := core_of_stages hdrive ht
  rw [advance_eq, Prod.mk.injEq] at hcore
  obtain ⟨hstate, hcomplete⟩ := hcore
  refine ⟨bus, hvalue (d := .mem) nofun, hvalue (d := .temp) nofun, hvalue (d := .const) nofun,
    hvalue (d := .alu) nofun, fun he _ => (receivePolled_of_drive hdrive (source_of (d := .io) he)).trans_kept hreceive,
    fun he => (receiveKept_of_drive hdrive (hnotIo he)).trans hreceive, fun hw => hwritten (wordAux_iff.2 hw),
    fun hw => hkept (mt wordAux_iff.1 hw), congrArg State.mem hstate, congrArg State.t hstate,
    congrArg State.flags hstate, congrArg State.bsel hstate, ?ir,
    (congrArg State.al hstate).trans (al_loaded s.core w bus),
    (congrArg State.ah hstate).trans (ah_loaded s.core w bus), ?ustep, ?complete⟩
  case ir =>
    have hir : t.ir = if wordAux w 1 then bus else s.ir := congrArg State.ir hstate
    simpa only [wordAux_iff] using hir
  case ustep =>
    have hustep : t.ustep = if wordAux w 3 then 0 else s.ustep + 1 := congrArg State.ustep hstate
    simpa only [wordAux_iff] using hustep
  case complete =>
    have hflag : complete = (wordAux w 3 || s.ustep == 15) := hcomplete
    rw [hflag, Bool.or_eq_true, wordAux_iff, beq_iff_eq]

end Sys2Proof.Machine

/-! SUPPORT. The opcode map as a partition of the opcode bytes, and decoding and encoding as each other's inverses
(`30_encoding.md` R69 to R73). -/

namespace Sys2Proof

/-! ## The length of an encoding (`30_encoding.md` R69) -/

namespace Laws.EncodedLength

theorem statement (i : Instr) : Statement i := by
  cases i <;>
    simp only [nop, brk, skp, ldt, pshi, calj, retl, reth, ldi, ldp, mov, ld, ldpi, st, stpi, lda, sta, inc, dec, incc,
      decc, shl, shr, rcl, rcr, andi, ori, and, or, add, addi, tst, ldf, stf, push, pop, jmp, jz, jnz, jc, jnc, js, jbe,
      jae, out, inp, outi, bmw, bmx, unmapped0E, unmappedEC, unmappedF0]

end Laws.EncodedLength

theorem bytes_eq (i : Instr) : i.bytes = i.operandBytes.length + 1 := (Laws.EncodedLength.statement i).1.symm

theorem length_operandBytes_le (i : Instr) : i.operandBytes.length ≤ 3 := by
  obtain ⟨-, -, hbytes⟩ := Laws.EncodedLength.statement i
  rw [bytes_eq] at hbytes
  omega

/-! ## The rows partition the opcode bytes (`30_encoding.md` R73) -/

/-- Each opcode byte matches exactly one row. -/
theorem length_filter_matches (op : Byte) : (opcodeRows.filter (fun row => row.matches op)).length = 1 := by
  revert op; decide

theorem decodeIn_eq_find? (op x y z : Byte) (rows : List OpcodeRow) :
    decodeIn op x y z rows = (rows.find? (fun row => row.matches op)).map (fun row => row.build op x y z) := by
  induction rows with
  | nil => rfl
  | cons row rows ih => cases h : row.matches op <;> simp [decodeIn, h, ih]

/-- The row of an opcode byte: it alone decides what the byte decodes to. -/
theorem exists_row (op : Byte) :
    ∃ row : OpcodeRow, opcodeRows.filter (fun row => row.matches op) = [row] ∧ decodeBytes op = row.build op := by
  obtain ⟨row, hrow⟩ := List.length_eq_one_iff.1 (length_filter_matches op)
  refine ⟨row, hrow, funext fun x => funext fun y => funext fun z => ?_⟩
  rw [decodeBytes, decodeIn_eq_find?, ← List.head?_filter, hrow]
  rfl

theorem decodeBytes_of_matches {row : OpcodeRow} {op : Byte} (hmem : row ∈ opcodeRows) (hop : row.matches op = true) :
    decodeBytes op = row.build op := by
  obtain ⟨only, hfilter, hbuild⟩ := exists_row op
  have hrow : row ∈ opcodeRows.filter (fun row => row.matches op) := List.mem_filter.2 ⟨hmem, hop⟩
  rw [hfilter, List.mem_singleton] at hrow
  rw [hbuild, hrow]

/-! ## The bytes after the opcode byte are operands and nothing else -/

/-- An instruction built from three bytes takes its operand bytes from them, in their order, and nothing else of it
depends on them. -/
structure OperandsApart (build : Byte → Byte → Byte → Instr) (x y z : Byte) : Prop where
  operandBytes : (build x y z).operandBytes = [x, y, z].take (build x y z).operandBytes.length
  opcode : (build x y z).opcode = (build 0 0 0).opcode
  wellFormed : (build x y z).wellFormed = (build 0 0 0).wellFormed
  bytes : (build x y z).bytes = (build 0 0 0).bytes
  microprogram (flags : Nibble) : Machine.microprogram (build x y z) flags = Machine.microprogram (build 0 0 0) flags

theorem operandsApart_build : ∀ row ∈ opcodeRows, ∀ op x y z : Byte, OperandsApart (row.build op) x y z := by
  simp only [opcodeRows, opcodeRowsLow, opcodeRowsMemoryArith, opcodeRowsLogicFlags, opcodeRowsHigh,
    List.forall_mem_append, List.forall_mem_cons, List.not_mem_nil, false_implies, implies_true, and_true]
  and_intros <;> exact fun _ _ _ _ => ⟨rfl, rfl, rfl, rfl, fun _ => rfl⟩

theorem operandsApart_decodeBytes (op x y z : Byte) : OperandsApart (decodeBytes op) x y z := by
  obtain ⟨row, hrow, hbuild⟩ := exists_row op
  have hmem : row ∈ opcodeRows := List.mem_of_mem_filter (hrow ▸ List.mem_singleton_self row)
  rw [hbuild]
  exact operandsApart_build row hmem op x y z

/-- The opcode map and the encoder's opcode bytes agree: all 256 opcode bytes. -/
theorem opcode_decodeBytes (op x y z : Byte) : (decodeBytes op x y z).opcode = op := by
  rw [(operandsApart_decodeBytes op x y z).opcode]
  revert op; decide

theorem wellFormed_decodeBytes (op x y z : Byte) : (decodeBytes op x y z).wellFormed = true := by
  rw [(operandsApart_decodeBytes op x y z).wellFormed]
  revert op; decide

/-- Settles O3: the rows by evaluation over the opcode bytes, and the operand bytes apart row by row. -/
theorem opcodeRowsPartition : Obligations.OpcodeRowsPartition := by
  intro op
  refine ⟨length_filter_matches op, fun x y z => ?_⟩
  have happart := operandsApart_decodeBytes op x y z
  exact ⟨wellFormed_decodeBytes op x y z, opcode_decodeBytes op x y z, happart.bytes, happart.microprogram⟩

/-! ## Decoding a list of bytes (`30_encoding.md` R69) -/

/-- When and what a list with an opcode byte decodes to. -/
theorem decode_cons_eq_ok_iff {op : Byte} {tail rest : List Byte} {i : Instr} :
    decode (op :: tail) = .ok (i, rest) ↔
      decodeBytes op (tail.getD 0 0) (tail.getD 1 0) (tail.getD 2 0) = i ∧ i.operandBytes.length ≤ tail.length ∧
        tail.drop i.operandBytes.length = rest := by
  simp only [decode, bytes_eq, Nat.add_sub_cancel, Nat.add_lt_add_iff_right]
  split
  case isTrue hshort =>
    simp only [reduceCtorEq, false_iff]
    rintro ⟨rfl, hle, -⟩
    exact absurd hle (Nat.not_le.2 hshort)
  case isFalse hlong =>
    simp only [Except.ok.injEq, Prod.mk.injEq]
    constructor
    · rintro ⟨rfl, rfl⟩
      exact ⟨rfl, Nat.not_lt.1 hlong, rfl⟩
    · rintro ⟨rfl, -, rfl⟩
      exact ⟨rfl, rfl⟩

theorem take_getD_three (l : List Byte) {n : Nat} (hn : n ≤ 3) (hl : n ≤ l.length) :
    [l.getD 0 0, l.getD 1 0, l.getD 2 0].take n = l.take n := by
  match n, l with
  | 0, _ => rfl
  | 1, _ :: _ => rfl
  | 2, _ :: _ :: _ => rfl
  | 3, _ :: _ :: _ :: _ => rfl

/-- Settles O2: the opcode byte is the decoded instruction's, its operand bytes are the bytes after it. -/
theorem encodeDecodeRoundTrip : Obligations.EncodeDecodeRoundTrip := by
  intro bytes rest i h
  match bytes with
  | [] => nomatch h
  | op :: tail =>
    obtain ⟨rfl, hlen, rfl⟩ := decode_cons_eq_ok_iff.1 h
    have htake := (operandsApart_decodeBytes op (tail.getD 0 0) (tail.getD 1 0) (tail.getD 2 0)).operandBytes
    rw [take_getD_three tail (length_operandBytes_le _) hlen] at htake
    refine ⟨wellFormed_decodeBytes _ _ _ _, ?_⟩
    calc encode _ ++ tail.drop _ = op :: (tail.take _ ++ tail.drop _) := by
          rw [encode, opcode_decodeBytes, List.cons_append, ← htake]
      _ = op :: tail := by rw [List.take_append_drop]

/-! ## Decoding an encoding -/

/-- A row whose instructions carry the opcode byte alone (`30_encoding.md` R72). -/
theorem decodeBytes_of_bare_row {mask pattern op : Byte} {build : Byte → Instr}
    (hmem : ⟨mask, pattern, fun op _ _ _ => build op⟩ ∈ opcodeRows) (hop : op &&& mask = pattern) (x y z : Byte) :
    decodeBytes op x y z = build op := by
  rw [decodeBytes_of_matches hmem (beq_iff_eq.2 hop)]

/-- The instruction at the head of a list of bytes that its encoding begins, by the fields of its opcode byte. -/
theorem decodeBytes_opcode {i : Instr} (h : i.wellFormed = true) (rest : List Byte) :
    let tail := i.operandBytes ++ rest
    decodeBytes i.opcode (tail.getD 0 0) (tail.getD 1 0) (tail.getD 2 0) = i := by
  cases i <;> simp only [Instr.opcode]
  case nop | brk | skp | retl | reth | ldt | pshi | calj => rfl
  case jmp | jz | jnz | jc | jnc | js | jbe | jae => rfl
  case inc r | dec r | incc r | decc r | shl r | shr r | rcl r | rcr r => cases r <;> rfl
  case tst r | ldf r | stf r | push r | pop r | bmw r => cases r <;> rfl
  case ldi r _ | andi r _ | ori r _ | addi r _ | lda r _ _ | sta _ _ r | bmx r _ _ => cases r <;> rfl
  case ldp p _ _ => cases p <;> rfl
  case ld r p | ldpi r p | st p r | stpi p r => cases p <;> cases r <;> rfl
  case mov dst src | and dst src | or dst src | add dst src => cases dst <;> cases src <;> rfl
  case out q r | inp r q => cases q <;> cases r <;> rfl
  case outi q _ => cases q <;> rfl
  case unmapped0E op =>
    have hop : op &&& 0xFE = 0x0E := by revert op; decide
    exact decodeBytes_of_bare_row (by simp [opcodeRows, opcodeRowsLow]) hop _ _ _
  case unmappedEC op =>
    have hop : op &&& 0xFC = 0xEC := by revert op; decide
    exact decodeBytes_of_bare_row (by simp [opcodeRows, opcodeRowsHigh]) hop _ _ _
  case unmappedF0 op =>
    have hop : op &&& 0xF0 = 0xF0 := by revert op; decide
    exact decodeBytes_of_bare_row (by simp [opcodeRows, opcodeRowsHigh]) hop _ _ _

/-- Settles O1: the opcode byte's fields name the operands, and the operand bytes stand at the head of the tail. -/
theorem decodeEncodeRoundTrip : Obligations.DecodeEncodeRoundTrip := fun i rest h =>
  decode_cons_eq_ok_iff.2 ⟨decodeBytes_opcode h rest, by simp, List.drop_left⟩

/-- Settles O19: the decoded instruction is the one that `step` fetches. -/
theorem stepRunsTheDecodedInstruction : Obligations.StepRunsTheDecodedInstruction := by
  intro s i rest hs h
  obtain ⟨hwf, -⟩ := encodeDecodeRoundTrip _ rest i h
  obtain ⟨hi, -, -⟩ := decode_cons_eq_ok_iff.1 h
  have hfetch : s.fetchInstr = i := hi
  exact ⟨hwf, by rw [Machine.step_of_atFetch hs, hfetch]⟩

end Sys2Proof

/-! SUPPORT. The microcode table: one driver and no reserved code in the word of any row, `RST` in the same rows for every
flag nibble, and the two stored images (`30_encoding.md` R60 to R67). -/

namespace Sys2Proof.Machine

/-! ## The word of a row -/

/-- The index of a driver in the control word. -/
def BusSource.index : BusSource → Nat
  | .mem => 0
  | .temp => 1
  | .const => 2
  | .alu => 3
  | .io => 4

theorem BusSource.index_lt (source : BusSource) : source.index < 5 := by cases source <;> decide

/-- A row's word has exactly the row's driver bit. -/
theorem getLsbD_word_low (m : MicroOp) {j : Nat} (hj : j < 5) : m.word.getLsbD j = decide (j = m.source.index) := by
  have hbit : m.source.bits.getLsbD j = decide (j = m.source.index) := by
    cases m.source <;> (revert j; decide)
  have hlow := congrArg (fun v => v.getLsbD j) (extract_low m)
  simpa only [BitVec.getLsbD_extractLsb', hj, decide_true, Bool.true_and, Nat.zero_add, hbit] using hlow

theorem exists_unique_driver (m : MicroOp) :
    ∃ k : Nat, k < 5 ∧ m.word.getLsbD k = true ∧ ∀ j : Nat, j < 5 → m.word.getLsbD j = true → j = k := by
  refine ⟨m.source.index, m.source.index_lt, ?_, fun j hj hbit => ?_⟩
  · rw [getLsbD_word_low m m.source.index_lt, decide_eq_true rfl]
  · rwa [getLsbD_word_low m hj, decide_eq_true_eq] at hbit

/-- A row that does not latch the select has one of the four auxiliary codes (`30_encoding.md` R62). -/
theorem auxCode_lt (m : MicroOp) (h : m.word.getLsbD 14 = false) : (m.word.extractLsb' 10 4).toNat < 4 := by
  have hlatches : m.select.latches = false := (wordLatches_word m).symm.trans h
  have hfield : m.word.extractLsb' 10 4 = m.select.field := wordField_word m
  rw [hfield]
  cases hselect : m.select with
  | latch b => simp [hselect, SelectUse.latches] at hlatches
  | none | ir | io | rst => decide

/-- The word of `RST` is that of no other row. -/
theorem word_eq_rst_iff (m : MicroOp) : m.word = 0x0C04 ↔ m = rstOp := by
  refine ⟨fun h => ?_, fun h => by rw [h]; decide⟩
  have hsource : m.source = .const := by simpa [h, wordSource] using (wordSource_word m).symm
  have hinc : m.inc = false := by simpa [h, wordIncs] using (wordIncs_word m).symm
  have hloads : m.loads = [] := List.eq_nil_iff_forall_not_mem.2 fun k => by
    have hbit := getLsbD_word m k
    rw [h] at hbit
    exact of_decide_eq_false (hbit.symm.trans (by cases k <;> rfl))
  have hlatches : m.select.latches = false := by simpa [h, wordLatches] using (wordLatches_word m).symm
  have hfield : m.select.field = 3 := by simpa [h, wordField] using (wordField_word m).symm
  have hselect : m.select = .rst := by
    cases hs : m.select <;> simp_all [SelectUse.latches, SelectUse.field]
  obtain ⟨source, loads, select, inc⟩ := m
  simp only [rstOp, row, MicroOp.mk.injEq]
  exact ⟨hsource, hloads, hselect, hinc⟩

/-! ## Arms of equal length (`70_reset_and_hazards.md` R243) -/

/-- Which rows of a microprogram are `RST`. -/
def rstPlaces (rows : List MicroOp) : List Bool := rows.map (fun m => decide (m = rstOp))

theorem getD_eq_rst_iff (rows : List MicroOp) (n : Nat) :
    rows.getD n idleOp = rstOp ↔ (rstPlaces rows).getD n false = true := by
  have hidle : decide (idleOp = rstOp) = false := by decide
  rw [rstPlaces, ← hidle, List.getD_map, decide_eq_true_eq]

theorem rstPlaces_jumpOps (taken taken' : Bool) : rstPlaces (jumpOps taken) = rstPlaces (jumpOps taken') := by
  cases taken <;> cases taken' <;> rfl

/-- The arms of an instruction have `RST` in the same rows. -/
theorem rstPlaces_microprogram (i : Instr) (f g : Nibble) :
    rstPlaces (microprogram i f) = rstPlaces (microprogram i g) := by
  cases i with
  | incc | decc | rcl | rcr => simp only [microprogram]; cases flagC f <;> cases flagC g <;> rfl
  | jmp | jz | jnz | jc | jnc | js | jbe | jae => exact rstPlaces_jumpOps _ _
  | _ => rfl

theorem ucode_eq_rst_iff (flags step : Nibble) (ir : Byte) (hi : flagI flags = true) :
    ucode flags step ir = 0x0C04 ↔
      step ≠ 0 ∧ (rstPlaces (microprogram (decodeOpcode ir) flags)).getD (step.toNat - 1) false = true := by
  rw [ucode, word_eq_rst_iff, ucodeRow, if_pos hi]
  split
  case isTrue hstep => exact iff_of_false (by decide) fun h => h.1 hstep
  case isFalse hstep => rw [getD_eq_rst_iff, and_iff_right hstep]

theorem flagI_normal (x : BitVec 3) : flagI (0b1#1 ++ x) = true := by revert x; decide

/-- A step of an opcode is `RST` for one nibble of the normal regime if and only if it is for another. -/
theorem ucode_eq_rst_congr (x y : BitVec 3) (step : Nibble) (ir : Byte) :
    ucode (0b1#1 ++ x) step ir = 0x0C04 ↔ ucode (0b1#1 ++ y) step ir = 0x0C04 := by
  rw [ucode_eq_rst_iff _ _ _ (flagI_normal x), ucode_eq_rst_iff _ _ _ (flagI_normal y), rstPlaces_microprogram]

/-! ## The stored images (`30_encoding.md` R65, R67) -/

theorem storedWord_ucodeAddress (flags step : Nibble) (ir : Byte) :
    storedWord (ucodeAddress flags step ir) = ucode flags step ir ^^^ activeLowMask := by
  have hflags : (ucodeAddress flags step ir).extractLsb' 12 4 = flags := by
    rw [ucodeAddress, BitVec.extractLsb'_append_eq_of_le (by decide), BitVec.extractLsb'_append_eq_left]
  have hstep : (ucodeAddress flags step ir).extractLsb' 8 4 = step := by
    rw [ucodeAddress, BitVec.extractLsb'_append_eq_of_le (by decide), BitVec.extractLsb'_append_eq_right]
  have hir : (ucodeAddress flags step ir).extractLsb' 0 8 = ir := by
    rw [ucodeAddress, BitVec.extractLsb'_append_eq_right]
  rw [storedWord, hflags, hstep, hir]

theorem wordFromImages_eq (flags step : Nibble) (ir : Byte) : wordFromImages flags step ir = ucode flags step ir := by
  have himages : wordFromImages flags step ir = storedWord (ucodeAddress flags step ir) ^^^ activeLowMask :=
    congrArg (· ^^^ activeLowMask) (joinBytes_hiByte_loByte _)
  rw [himages, storedWord_ucodeAddress, BitVec.xor_assoc, BitVec.xor_self, BitVec.xor_zero]

/-- Settles O10: each word is a row's word, the images hold it under the mask. -/
theorem microcodeTableIsSound : Obligations.MicrocodeTableIsSound := by
  refine ⟨fun flags step ir => ⟨exists_unique_driver _, auxCode_lt _⟩, ucode_eq_rst_congr, wordFromImages_eq, ?_⟩
  rw [storedWord_ucodeAddress]
  decide

end Sys2Proof.Machine

/-! SUPPORT. The bit move: the crossbar as one bit of a byte, and `BMX`, `BMW` as the two halves of the copy
(`40_alu_operations.md` R98, `45_logic_bits_flags.md` R172, R173). -/

namespace Sys2Proof.Machine

/-! ## The crossbar (`40_alu_operations.md` R98) -/

/-- The sub-selectors `0b01_rrr_www` of the unary family are the crossbar's. -/
theorem aluUnary_xbar (rp wp : BitVec 3) (l : Byte) :
    aluUnary (0b01#2 ++ rp ++ wp) l = aluXbar (0b01#2 ++ rp ++ wp) l := by
  have hcodes : ∀ r : Byte, r.extractLsb' 6 2 = 0b01#2 → r ≠ 0x02 ∧ r ≠ 0x03 ∧ r ≠ 0x04 := by decide
  have hfamily : (0b01#2 ++ rp ++ wp).extractLsb' 6 2 = 0b01#2 := by
    rw [BitVec.extractLsb'_append_eq_of_le (by decide), BitVec.extractLsb'_append_eq_left]
  obtain ⟨hshr, hshrf, hfour⟩ := hcodes _ hfamily
  rw [aluUnary, if_neg hshr, if_neg hshrf, if_neg hfour, if_pos hfamily]

theorem aluXbar_eq (rp wp : BitVec 3) (l : Byte) :
    aluXbar (0b01#2 ++ rp ++ wp) l = (BitVec.ofBool (l.getLsbD rp.toNat)).setWidth 8 <<< wp.toNat := by
  have hread : (0b01#2 ++ rp ++ wp).extractLsb' 3 3 = rp := by
    rw [BitVec.extractLsb'_append_eq_of_le (by decide), BitVec.extractLsb'_append_eq_right]
  have hwrite : (0b01#2 ++ rp ++ wp).extractLsb' 0 3 = wp := BitVec.extractLsb'_append_eq_right
  simp only [aluXbar, hread, hwrite]

/-- One bit of the crossbar's output. -/
theorem getLsbD_aluUnary_xbar (rp wp : BitVec 3) (l : Byte) {k : Nat} (hk : k < 8) :
    (aluUnary (0b01#2 ++ rp ++ wp) l).getLsbD k = (decide (k = wp.toNat) && l.getLsbD rp.toNat) := by
  rw [aluUnary_xbar, aluXbar_eq]
  generalize l.getLsbD rp.toNat = bit
  revert k
  revert bit wp
  decide

/-- A byte with one bit cleared. -/
theorem getLsbD_and_mask (v : Byte) (wp : BitVec 3) {k : Nat} (hk : k < 8) :
    (v &&& ~~~((1 : Byte) <<< wp.toNat)).getLsbD k = (decide (k ≠ wp.toNat) && v.getLsbD k) := by
  have hmask : (~~~((1 : Byte) <<< wp.toNat)).getLsbD k = decide (k ≠ wp.toNat) := by
    revert k
    revert wp
    decide
  rw [BitVec.getLsbD_and, hmask, Bool.and_comm]

/-- The masked byte and the crossbar's output, merged. -/
theorem getLsbD_bitMove (v u : Byte) (rp wp : BitVec 3) {k : Nat} (hk : k < 8) :
    ((v &&& ~~~((1 : Byte) <<< wp.toNat)) ||| aluUnary (0b01#2 ++ rp ++ wp) u).getLsbD k =
      if k = wp.toNat then u.getLsbD rp.toNat else v.getLsbD k := by
  rw [BitVec.getLsbD_or, getLsbD_and_mask v wp hk, getLsbD_aluUnary_xbar rp wp u hk]
  split <;> simp_all

/-! ## A result between the save and the restore of the pc (`30_encoding.md` R75) -/

@[simp] theorem reg_fetched (s : State) (i : Instr) (r : Reg) : (s.fetched i).reg r = s.reg r :=
  slot_fetched s i (regSlot r)

@[simp] theorem reg_takeOperand (s : State) (v : Byte) (r : Reg) : (s.takeOperand v).reg r = s.reg r :=
  slot_takeOperand s v (regSlot r)

@[simp] theorem reg_endSlot (s : State) (r : Reg) : s.endSlot.reg r = s.reg r := slot_endSlot s (regSlot r)

theorem reg_savePc (s : State) (r : Reg) : s.savePc.reg r = s.reg r := by
  obtain ⟨hpl, hph, -, -⟩ := regSlot_ne r
  exact (slot_writeMem_slotAddr_ne _ _ hph).trans (slot_writeMem_slotAddr_ne _ _ hpl)

theorem slot_w_savePc (s : State) : s.savePc.slot .w = s.slot .w :=
  (slot_writeMem_slotAddr_ne _ _ (by decide)).trans (slot_writeMem_slotAddr_ne _ _ (by decide))

/-- `SAVE`, a result to a slot, `RESTORE`. -/
def State.savedResult (s : State) (x : Slot) (v : Byte) : State := (s.savePc.result x v).restorePc

section

variable {s : State} {x : Slot} (v : Byte)

theorem wf_savedResult (hwf : s.mem.wf = true) : (s.savedResult x v).mem.wf = true := wf_result (wf_savePc hwf) x v

@[simp] theorem flags_savedResult : (s.savedResult x v).flags = s.flags := by
  rw [State.savedResult, State.restorePc_flags, State.result_flags, State.savePc_flags]

theorem readMem_savedResult (hwf : s.mem.wf = true) (a : Addr) :
    (s.savedResult x v).readMem a = if a = slotAddr x then v else s.savePc.readMem a :=
  readMem_result (wf_savePc hwf) x v a

theorem readMem_savedResult_ne (hwf : s.mem.wf = true) {a : Addr} (ha : a ∉ [slotAddr .pl, slotAddr .ph, slotAddr x]) :
    (s.savedResult x v).readMem a = s.readMem a := by
  simp only [List.mem_cons, List.not_mem_nil, or_false, not_or] at ha
  obtain ⟨hpl, hph, hx⟩ := ha
  rw [readMem_savedResult v hwf, if_neg hx, readMem_savePc hwf, if_neg hph, if_neg hpl]

theorem slot_savedResult_self (hwf : s.mem.wf = true) : (s.savedResult x v).slot x = v :=
  (readMem_savedResult v hwf _).trans (if_pos rfl)

theorem reg_savedResult_ne (hwf : s.mem.wf = true) {r : Reg} (hr : regSlot r ≠ x) :
    (s.savedResult x v).reg r = s.reg r :=
  readMem_savedResult_ne v hwf (by simp [hr])

/-- The saved pc comes back when the result goes to a slot other than `PL` and `PH`. -/
theorem pc_savedResult (hwf : s.mem.wf = true) (hx : x ≠ .pl ∧ x ≠ .ph) : (s.savedResult x v).pc = s.pc := by
  obtain ⟨hpl, hph⟩ := hx
  have hlow : (s.savePc.result x v).slot .pl = loByte s.pc := by
    simp [State.slot, readMem_result (wf_savePc hwf), readMem_savePc hwf, hpl.symm]
  have hhigh : (s.savePc.result x v).slot .ph = hiByte s.pc := by
    simp [State.slot, readMem_result (wf_savePc hwf), readMem_savePc hwf, hph.symm]
  rw [State.savedResult, pc_restorePc, hlow, hhigh, joinBytes_hiByte_loByte]

end

/-! ## The two halves of the bit move -/

theorem exec_bmx (src : Reg) (xsel mask : Byte) (s : State) :
    exec (.bmx src xsel mask) s =
      let u := ((s.fetched (.bmx src xsel mask)).takeOperand xsel).savedResult .w (aluUnary xsel (s.reg src))
      .next (u.takeOperand (u.lateByte s mask)).endSlot := by
  have hreg := reg_savePc ((s.fetched (.bmx src xsel mask)).takeOperand xsel) src
  simp only [exec, execBmx, hreg]
  rfl

theorem exec_bmw (dst : Reg) (s : State) :
    exec (.bmw dst) s =
      .next ((s.fetched (.bmw dst)).savedResult (regSlot dst) ((s.reg dst &&& s.t) ||| s.slot .w)) := by
  simp only [exec, execBmw, reg_savePc, slot_w_savePc]
  rfl

/-- `BMX` with its mask byte clear of the slots it writes: the mask in `T`, the bit in `W`, the general registers as
before (`45_logic_bits_flags.md` R172). -/
theorem execBmx_of_clear {s t : State} {src : Reg} {xsel mask : Byte} (hwf : s.mem.wf = true)
    (hmask : s.readMem (s.pc + 2) = mask) (hclear : s.pc + 2 ∉ [slotAddr .pl, slotAddr .ph, slotAddr .w])
    (h : exec (.bmx src xsel mask) s = .next t) :
    t.mem.wf = true ∧ t.t = mask ∧ t.slot .w = aluUnary xsel (s.reg src) ∧ (∀ r : Reg, t.reg r = s.reg r) ∧
      t.flags = s.flags ∧ t.pc = s.pc + 3 := by
  have hwf' : ((s.fetched (.bmx src xsel mask)).takeOperand xsel).mem.wf = true := hwf
  have hpc : (((s.fetched (.bmx src xsel mask)).takeOperand xsel).savedResult .w (aluUnary xsel (s.reg src))).pc =
      s.pc + 2 := by
    rw [pc_savedResult _ hwf' (by decide), pc_takeOperand, pc_fetched, BitVec.add_assoc]; rfl
  rw [exec_bmx] at h
  obtain rfl := Host.Outcome.next.inj h
  refine ⟨?wf, ?late, ?w, fun r => ?reg, by simp, ?pc⟩
  case wf =>
    rw [State.endSlot_mem, State.takeOperand_mem]
    exact wf_savedResult _ hwf'
  case w => rw [slot_endSlot, slot_takeOperand, slot_savedResult_self _ hwf']
  case late =>
    refine (lateByte_eq_readMem (by rw [hpc, hmask])).trans ?_
    rw [hpc, readMem_savedResult_ne _ hwf' hclear, readMem_takeOperand, readMem_fetched, hmask]
  case reg =>
    rw [reg_endSlot, reg_takeOperand, reg_savedResult_ne _ hwf' (by simp), reg_takeOperand, reg_fetched]
  case pc => rw [pc_endSlot, pc_takeOperand, hpc, BitVec.add_assoc]; rfl

/-- `BMW` merges the masked register with `W` (`45_logic_bits_flags.md` R173). -/
theorem execBmw_regs {s t : State} {dst : Reg} (hwf : s.mem.wf = true) (h : exec (.bmw dst) s = .next t) :
    t.reg dst = (s.reg dst &&& s.t) ||| s.slot .w ∧ (∀ r : Reg, r ≠ dst → t.reg r = s.reg r) ∧
      t.flags = s.flags ∧ t.pc = s.pc + 1 := by
  have hwf' : (s.fetched (.bmw dst)).mem.wf = true := hwf
  obtain ⟨hpl, hph, -, -⟩ := regSlot_ne dst
  rw [exec_bmw] at h
  obtain rfl := Host.Outcome.next.inj h
  refine ⟨slot_savedResult_self _ hwf', fun r hr => ?others, flags_savedResult _, ?pc⟩
  case others => rw [reg_savedResult_ne _ hwf' (mt regSlot_inj.1 hr), reg_fetched]
  case pc => rw [pc_savedResult _ hwf' ⟨hpl, hph⟩, pc_fetched]

/-- Settles O49: `BMX` leaves the bit and the mask, `BMW` merges them, bit by bit. -/
theorem bitMoveCopiesOneBit : Obligations.BitMoveCopiesOneBit := by
  intro s s1 s2 dst src rp wp mask hwf hmask hclear hbmx hbmw
  obtain ⟨hwf1, ht, hw, hregs, hflags, hpc⟩ := execBmx_of_clear hwf hmask hclear hbmx
  obtain ⟨hdst, hothers, hflags', hpc'⟩ := execBmw_regs hwf1 hbmw
  refine ⟨fun k hk => ?_, fun r hr => (hothers r hr).trans (hregs r), hflags'.trans hflags, ?_⟩
  · rw [hdst, hregs, ht, hw]
    exact getLsbD_bitMove _ _ rp wp hk
  · rw [hpc', hpc, BitVec.add_assoc]
    rfl

end Sys2Proof.Machine

/-! SUPPORT. The ALU table: the function at each selector code (`40_alu_operations.md` R90), the bits of a flag byte,
the sub-selectors of the unary family and the boot window; with them the laws R91 to R101. -/

namespace Sys2Proof.Machine

/-! ## The function at each selector code (`40_alu_operations.md` R90) -/

section

variable (img : BootImage) (r l : Byte)

theorem alu_passl : alu img 0 r l = l := rfl

theorem alu_passr : alu img 1 r l = r := rfl

theorem alu_nand : alu img 2 r l = ~~~(l &&& r) := rfl

theorem alu_or : alu img 3 r l = l ||| r := rfl

theorem alu_add : alu img 4 r l = l + r := rfl

theorem alu_addf : alu img 5 r l = flagByte (addFlags r l) := rfl

theorem alu_unary : alu img 6 r l = aluUnary r l := rfl

theorem alu_boot : alu img 7 r l = aluBoot img r l := rfl

end

/-! ## Flag bytes (`40_alu_operations.md` R96, R97) -/

theorem getLsbD_flagByte (f : Nibble) (k : Nat) : (flagByte f).getLsbD k = f.getLsbD k := by
  rw [flagByte, BitVec.getLsbD_setWidth, Bool.and_eq_right_iff_imp, decide_eq_true_iff]
  exact fun hbit => (BitVec.lt_of_getLsbD hbit).trans (by decide)

theorem getLsbD_flagByte_zero (f : Nibble) : (flagByte f).getLsbD 0 = flagC f := getLsbD_flagByte f 0

theorem getLsbD_flagByte_one (f : Nibble) : (flagByte f).getLsbD 1 = flagS f := getLsbD_flagByte f 1

theorem getLsbD_flagByte_two (f : Nibble) : (flagByte f).getLsbD 2 = flagZ f := getLsbD_flagByte f 2

theorem getLsbD_flagByte_three (f : Nibble) : (flagByte f).getLsbD 3 = flagI f := getLsbD_flagByte f 3

theorem getLsbD_flagByte_of_le (f : Nibble) {k : Nat} (hk : 4 ≤ k) : (flagByte f).getLsbD k = false :=
  (getLsbD_flagByte f k).trans (BitVec.getLsbD_of_ge f k hk)

/-- The wrapping sum is 0 exactly when the exact sum is 0 modulo 256. -/
theorem add_eq_zero_iff_mod (l r : Byte) : l + r = 0 ↔ (l.toNat + r.toNat) % 256 = 0 := by
  rw [← BitVec.toNat_add]
  exact BitVec.toNat_inj.symm

/-- The flags of an addition, with `S` and `Z` read from the wrapping sum. -/
theorem addFlags_eq (r l : Byte) :
    addFlags r l = packFlags (decide (l.toNat + r.toNat > 255)) ((l + r).getLsbD 7) (decide (l + r = 0)) true := by
  simp only [addFlags, ofNat_toNat_add, add_eq_zero_iff_mod]

/-- Bit 0 of `ADDF` is the carry of the exact sum. -/
theorem getLsbD_alu_addf_zero (img : BootImage) (r l : Byte) :
    (alu img 5 r l).getLsbD 0 = decide (l.toNat + r.toNat > 255) := by
  rw [alu_addf, getLsbD_flagByte_zero, flagC_addFlags]

theorem flagC_shrFlags (l : Byte) : flagC (shrFlags l) = l.getLsbD 0 := flagC_packFlags ..

/-- A byte shifted right has its top bit clear (`40_alu_operations.md` R101). -/
theorem flagS_shrFlags (l : Byte) : flagS (shrFlags l) = false := by
  rw [shrFlags, flagS_packFlags, BitVec.getLsbD_ushiftRight]
  exact BitVec.getLsbD_of_ge l 8 le_rfl

theorem flagZ_shrFlags (l : Byte) : flagZ (shrFlags l) = decide (l >>> 1 = 0) := flagZ_packFlags ..

/-! ## The unary family (`40_alu_operations.md` R97, R98) -/

theorem aluUnary_shr (l : Byte) : aluUnary 0x02 l = l >>> 1 := rfl

theorem aluUnary_shrf (l : Byte) : aluUnary 0x03 l = flagByte (shrFlags l) := rfl

theorem aluUnary_four (l : Byte) : aluUnary 0x04 l = 0x04 := rfl

theorem toNat_ushiftRight_one (l : Byte) : (l >>> 1).toNat = l.toNat / 2 := by
  rw [BitVec.toNat_ushiftRight, Nat.shiftRight_eq_div_pow, Nat.pow_one]

/-- A sub-selector is the crossbar's if and only if it lies in 0x40 to 0x7F. -/
theorem isXbarCode_iff (r : Byte) : r.extractLsb' 6 2 = 0b01#2 ↔ 0x40 ≤ r.toNat ∧ r.toNat ≤ 0x7F := by
  have hr := r.isLt
  rw [← BitVec.toNat_inj, BitVec.extractLsb'_toNat, Nat.shiftRight_eq_div_pow]
  simp only [BitVec.toNat_ofNat]
  omega

/-- A crossbar code is its two positions under the family's high bits. -/
theorem eq_append_positions {r : Byte} (hfamily : r.extractLsb' 6 2 = 0b01#2) :
    r = 0b01#2 ++ r.extractLsb' 3 3 ++ r.extractLsb' 0 3 := by
  have hhigh : r.extractLsb' 6 2 ++ r.extractLsb' 3 3 = r.extractLsb' 3 5 :=
    BitVec.extractLsb'_append_extractLsb'_eq_extractLsb' rfl
  rw [← hfamily, hhigh]
  exact (BitVec.extractLsb'_append_extractLsb' (w := 5) (len := 3)).symm

/-- A bit of the crossbar's output, its positions read from the sub-selector. -/
theorem getLsbD_aluUnary_of_family {r : Byte} (l : Byte) {k : Nat} (hfamily : r.extractLsb' 6 2 = 0b01#2) (hk : k < 8) :
    (aluUnary r l).getLsbD k = (decide (k = r.toNat % 8) && l.getLsbD (r.toNat / 8 % 8)) := by
  have hread : (r.extractLsb' 3 3).toNat = r.toNat / 8 % 8 := by
    rw [BitVec.extractLsb'_toNat, Nat.shiftRight_eq_div_pow]
  have hwrite : (r.extractLsb' 0 3).toNat = r.toNat % 8 := by
    rw [BitVec.extractLsb'_toNat, Nat.shiftRight_zero]
  rw [← hread, ← hwrite, ← getLsbD_aluUnary_xbar _ _ l hk, ← eq_append_positions hfamily]

theorem aluUnary_of_ne {r : Byte} (l : Byte) (hshr : r ≠ 0x02) (hshrf : r ≠ 0x03) (hfour : r ≠ 0x04)
    (hfamily : r.extractLsb' 6 2 ≠ 0b01#2) : aluUnary r l = 0x0C := by
  rw [aluUnary, if_neg hshr, if_neg hshrf, if_neg hfour, if_neg hfamily]

/-! ## The boot window (`40_alu_operations.md` R99) -/

theorem aluBoot_of_mem_window (img : BootImage) {r l : Byte} {k : Nat} (hk : k < img.val.length)
    (ha : r.toNat * 256 + l.toNat = 0x0400 + k) : aluBoot img r l = img.val[k] := by
  have hwindow : 0x0400 ≤ 0x0400 + k ∧ 0x0400 + k < 0x0400 + img.val.length := by omega
  simp only [aluBoot, toNat_joinBytes, ha]
  rw [if_pos hwindow, Nat.add_sub_cancel_left, List.getD_eq_getElem]

theorem aluBoot_of_not_mem_window (img : BootImage) {r l : Byte}
    (ha : r.toNat * 256 + l.toNat < 0x0400 ∨ 0x0400 + img.val.length ≤ r.toNat * 256 + l.toNat) :
    aluBoot img r l = l := by
  simp only [aluBoot, toNat_joinBytes]
  exact if_neg (by omega)

/-! ## The flags of an addition to itself and of a constant (`40_alu_operations.md` R101) -/

theorem toNat_add_one_gt_iff (v : Byte) : v.toNat + 1 > 255 ↔ v = 0xFF := by
  rw [← BitVec.toNat_inj]
  exact ⟨fun h => Nat.le_antisymm (Nat.le_of_lt_succ v.isLt) (Nat.le_of_lt_succ h), fun h => by rw [h]; decide⟩

theorem add_one_eq_zero_iff (v : Byte) : v + 0x01 = 0x00 ↔ v = 0xFF := by
  rw [← eq_sub_iff_add_eq]
  rfl

theorem toNat_add_max_gt_iff (v : Byte) : v.toNat + 255 > 255 ↔ v ≠ 0x00 := by
  rw [gt_iff_lt, Nat.lt_add_left_iff_pos, Nat.pos_iff_ne_zero]
  exact not_congr (BitVec.toNat_inj (y := 0))

theorem decide_toNat_double_gt (v : Byte) : decide (v.toNat + v.toNat > 255) = v.getLsbD 7 := by
  have hbit : v.getLsbD 7 = decide (128 ≤ v.toNat) := BitVec.msb_eq_getLsbD_last v ▸ BitVec.msb_eq_decide v
  rw [hbit, decide_eq_decide]
  omega

theorem addFlags_zero (v : Byte) : addFlags 0x00 v = packFlags false (v.getLsbD 7) (decide (v = 0x00)) true := by
  have hcarry : ¬ v.toNat + (0x00 : Byte).toNat > 255 := Nat.not_lt.2 (Nat.le_of_lt_succ v.isLt)
  rw [addFlags_eq, decide_eq_false hcarry, add_zero]

/-! ## The laws of the table -/

/-- Settles O5: each selector's function, bit by bit where the law speaks of bits. -/
theorem aluByteOperations : Obligations.AluByteOperations := by
  intro img r l
  refine ⟨alu_passl .., alu_passr .., fun k hk => ?nand, fun x => ?complement, ?twice, ?zero, fun k _ => ?or, ?sum⟩
  case nand => rw [alu_nand, BitVec.getLsbD_not, BitVec.getLsbD_and, decide_eq_true hk, Bool.true_and]
  case complement => rw [alu_nand, BitVec.and_self]
  case twice => rw [alu_nand, alu_nand, BitVec.and_self, BitVec.not_not]
  case zero => exact congrArg (~~~ ·) BitVec.and_zero
  case or => rw [alu_or, BitVec.getLsbD_or]
  case sum => rw [alu_add, BitVec.toNat_add]

/-- Settles O6: the bits of the flag byte are the flags of the exact sum. -/
theorem aluAdditionFlags : Obligations.AluAdditionFlags := by
  intro img r l
  have hsum : BitVec.ofNat 8 ((l.toNat + r.toNat) % 256) = l + r := BitVec.eq_of_toNat_eq (by simp)
  refine ⟨getLsbD_alu_addf_zero .., ?sign, ?zero, ?marker, fun k hk => getLsbD_flagByte_of_le _ hk⟩
  case sign => rw [alu_addf, getLsbD_flagByte_one, flagS_addFlags, hsum]
  case zero => rw [alu_addf, getLsbD_flagByte_two, flagZ_addFlags, decide_eq_decide.2 (add_eq_zero_iff_mod l r)]
  case marker => rw [alu_addf, getLsbD_flagByte_three, flagI_addFlags]

/-- Settles O7: one clause per sub-selector, the crossbar's positions read from its code. -/
theorem aluUnaryFamily : Obligations.AluUnaryFamily := by
  intro img r l
  rw [alu_unary]
  refine ⟨?shr, ?shrf, ?four, fun hlo hhi k hk => ?xbar, fun hshr hshrf hfour hout => ?other⟩
  case shr =>
    rintro rfl
    rw [aluUnary_shr, toNat_ushiftRight_one]
  case shrf =>
    rintro rfl
    have hzero : l >>> 1 = 0 ↔ l.toNat / 2 = 0 := by
      rw [← toNat_ushiftRight_one]
      exact BitVec.toNat_inj.symm
    rw [aluUnary_shrf, getLsbD_flagByte_zero, getLsbD_flagByte_one, getLsbD_flagByte_two, getLsbD_flagByte_three]
    exact ⟨flagC_shrFlags l, flagS_shrFlags l, (flagZ_shrFlags l).trans (decide_eq_decide.2 hzero), flagI_shrFlags l,
      fun k hk => getLsbD_flagByte_of_le _ hk⟩
  case four =>
    rintro rfl
    exact aluUnary_four l
  case xbar => exact getLsbD_aluUnary_of_family l ((isXbarCode_iff r).2 ⟨hlo, hhi⟩) hk
  case other =>
    refine aluUnary_of_ne l hshr hshrf hfour fun hfamily => ?_
    obtain ⟨hlo, hhi⟩ := (isXbarCode_iff r).1 hfamily
    omega

/-- Settles O8: the address is in the window, or it is not. -/
theorem aluBootRegion : Obligations.AluBootRegion := by
  intro img r l
  exact ⟨fun k hk ha => (alu_boot img r l).trans (aluBoot_of_mem_window img hk ha),
    fun ha => (alu_boot img r l).trans (aluBoot_of_not_mem_window img ha)⟩

/-- Settles O9: the carry of each constant addend as a bound on the exact sum. -/
theorem aluFlagConsequences : Obligations.AluFlagConsequences := by
  intro img v
  have hinc : (alu img 5 0x01 v).getLsbD 0 = true ↔ v = 0xFF := by
    rw [getLsbD_alu_addf_zero, decide_eq_true_iff]
    exact toNat_add_one_gt_iff v
  refine ⟨hinc, hinc.trans ?wrap, ?dec, ?zero, ?double, ?shift⟩
  case wrap => rw [alu_add, add_one_eq_zero_iff]
  case dec =>
    rw [getLsbD_alu_addf_zero, decide_eq_true_iff]
    exact toNat_add_max_gt_iff v
  case zero => rw [alu_addf, addFlags_zero]
  case double => rw [getLsbD_alu_addf_zero, decide_toNat_double_gt]
  case shift => rw [alu_unary, aluUnary_shrf, getLsbD_flagByte_one, flagS_shrFlags]

end Sys2Proof.Machine

/-! SUPPORT. The end of a slot: a cycle of the microcode table stops at a missing port or moves the microstep counter
on, so that sixteen cycles always reach the end of a slot (`41_cycle.md` R118, R119; `60_exceptions.md` R211 to R213). -/

namespace Sys2Proof.Machine

/-! ## One cycle of the table -/

theorem ioRead_error {s : State} {f : Fault} (h : s.ioRead = .error f) : f = .unsupportedPort := by
  unfold State.ioRead at h
  split at h
  · cases h; rfl
  next q _ =>
    cases q with
    | p3 => cases h
    | p0 | p1 | p2 => cases h; rfl

theorem ioWrite_error {s : State} {code : Nibble} {v : Byte} {f : Fault} (h : s.ioWrite code v = .error f) :
    f = .unsupportedPort := by
  unfold State.ioWrite at h
  split at h
  · cases h; rfl
  next q _ =>
    cases q with
    | p3 => cases h
    | p0 | p1 | p2 => cases h; rfl

theorem drive_error {img : BootImage} {s : State} {source : BusSource} {f : Fault}
    (h : s.drive img source = .error f) : f = .unsupportedPort := by
  cases source with
  | io => exact ioRead_error h
  | mem | temp | const | alu => cases h

/-- No row's word holds a reserved auxiliary code (`30_encoding.md` R62). -/
theorem wordReserved_word (m : MicroOp) : wordReserved m.word = false := by
  rw [wordReserved, wordLatches_word, wordField_word]
  cases m.select <;> rfl

/-- A row names its driver and no reserved code, so a port is all that its cycle can fault at. -/
theorem cycleWord_word_error {img : BootImage} {m : MicroOp} {s : State} {f : Fault}
    (h : cycleWord img m.word s = .error f) : f = .unsupportedPort := by
  simp only [cycleWord, wordSource_word, wordReserved_word, Bool.false_eq_true, if_false] at h
  split at h
  next hdrive => cases h; exact drive_error hdrive
  · split at h
    · split at h
      next hwrite => cases h; exact ioWrite_error hwrite
      · cases h
    · cases h

theorem cycle_error {img : BootImage} {s : State} {f : Fault} (h : cycle img s = .error f) : f = .unsupportedPort :=
  cycleWord_word_error h

/-- A cycle leaves `STEP` = 0 or the next microstep (`41_cycle.md` R118). -/
theorem ustep_of_cycle {img : BootImage} {s t : State} {complete : Bool} (h : cycle img s = .ok (t, complete)) :
    t.ustep = 0 ∨ t.ustep = s.ustep + 1 := by
  obtain ⟨source, bus, u, -, hdrive, ht⟩ := cycleWord_ok h
  have hcore := core_of_stages hdrive ht
  rw [advance_eq, Prod.mk.injEq] at hcore
  have hustep := congrArg State.ustep hcore.1
  exact (ite_eq_or_eq _ _ _).imp hustep.trans hustep.trans

theorem ustep_of_complete {img : BootImage} {s t : State} (h : cycle img s = .ok (t, true)) : t.ustep = 0 :=
  eq_of_beq (cycleWord_complete h).symm

/-- A cycle that does not end the slot is one microstep nearer to the wrap of the counter. -/
theorem ustep_of_not_complete {img : BootImage} {s t : State} (h : cycle img s = .ok (t, false)) :
    t.ustep.toNat = s.ustep.toNat + 1 := by
  have hne : t.ustep ≠ 0 := ne_of_beq_false (cycleWord_complete h).symm
  obtain hzero | hnext := ustep_of_cycle h
  · exact absurd hzero hne
  · rw [hnext] at hne ⊢
    bv_omega

/-! ## The end of the slot -/

/-- From every state the slot ends while the fuel lasts to the wrap of the counter. -/
theorem slotLoop_ends (img : BootImage) (fuel : Nat) :
    ∀ (done : Nat) (s : State), 16 ≤ s.ustep.toNat + fuel →
      (∃ (t : State) (n : Nat),
          slotLoop img fuel done s = .complete t (done + n) ∧ 1 ≤ n ∧ n + s.ustep.toNat ≤ 16 ∧ t.ustep = 0) ∨
        slotLoop img fuel done s = .fault .unsupportedPort := by
  induction fuel with
  | zero =>
    intro done s hfuel
    have := s.ustep.isLt
    omega
  | succ fuel ih =>
    intro done s hfuel
    rw [slotLoop]
    split
    next f hcycle => exact .inr (congrArg SlotEnd.fault (cycle_error hcycle))
    next t hcycle =>
      have := s.ustep.isLt
      exact .inl ⟨t, 1, rfl, le_rfl, by omega, ustep_of_complete hcycle⟩
    next t hcycle =>
      have hustep := ustep_of_not_complete hcycle
      obtain ⟨u, n, hu, -, hle, hzero⟩ | hfault := ih (done + 1) t (by omega)
      · exact .inl ⟨u, n + 1, by rw [hu, Nat.add_assoc, Nat.add_comm 1 n], by omega, by omega, hzero⟩
      · exact .inr hfault

/-- Settles O15: sixteen cycles reach the wrap of the counter from every microstep. -/
theorem slotsEnd : Obligations.SlotsEnd := by
  intro img s
  obtain ⟨t, n, ht, hrest⟩ | hfault := slotLoop_ends img 16 0 s (Nat.le_add_left _ _)
  · exact .inl ⟨t, n, by rw [slotEnd, ht, Nat.zero_add], hrest⟩
  · exact .inr hfault

/-- Settles O20: a step away from a fetch is the slot run through `cycle`, and that slot ends. -/
theorem stepFinishesTheSlot : Obligations.StepFinishesTheSlot := by
  intro s hs
  rw [step_of_not_atFetch hs, runSlot]
  obtain ⟨t, n, ht, -⟩ | hfault := slotsEnd Config.bootImage s
  · exact .inl ⟨t, n, ht, by rw [ht]⟩
  · exact .inr ⟨hfault, by rw [hfault]; rfl⟩

end Sys2Proof.Machine

/-! SUPPORT. A slot of the normal regime row by row: the fetch, then the rows of the instruction's microprogram, each of
which takes the state to the one `State.runRow` gives (`41_cycle.md` R119, `30_encoding.md` R63, R66). -/

namespace Sys2Proof.Machine

/-! ## What a row does to the state -/

/-- The state after a row, but for the count of microsteps, which only `RST` sets. -/
def State.runRow (img : BootImage) (s : State) (m : MicroOp) : State :=
  { s.afterRow m (s.busValue img m.source) with ustep := if m.select = .rst then 0 else s.ustep }

/-- The state after some rows. -/
def State.runRows (img : BootImage) (s : State) (rows : List MicroOp) : State := rows.foldl (State.runRow img) s

/-- The state with `n` rows of its microprogram done: microstep `n + 1`. -/
def State.atRow (s : State) (n : Nat) : State := { s with ustep := BitVec.ofNat 4 (n + 1) }

section
variable (img : BootImage) (s : State)

@[simp] theorem runRows_nil : s.runRows img [] = s := rfl

@[simp] theorem runRows_cons (m : MicroOp) (rows : List MicroOp) :
    s.runRows img (m :: rows) = (s.runRow img m).runRows img rows := rfl

@[simp] theorem runRows_append (rows rows' : List MicroOp) :
    s.runRows img (rows ++ rows') = (s.runRows img rows).runRows img rows' := List.foldl_append

end

/-- A row that accesses no port, loads no opcode and does not end the slot. -/
def MicroOp.isQuiet (m : MicroOp) : Bool :=
  m.source != .io && m.select != .io && m.select != .ir && m.select != .rst

theorem MicroOp.isQuiet_iff {m : MicroOp} :
    m.isQuiet = true ↔ m.source ≠ .io ∧ m.select ≠ .io ∧ m.select ≠ .ir ∧ m.select ≠ .rst := by
  simp [MicroOp.isQuiet, and_assoc]

/-- Does a row load `FLAGS`? -/
def MicroOp.loadsFlags (m : MicroOp) : Bool := decide (Load.flags ∈ m.loads)

theorem flags_runRow {m : MicroOp} (img : BootImage) (s : State) (h : m.loadsFlags = false) :
    (s.runRow img m).flags = s.flags :=
  if_neg (of_decide_eq_false h)

theorem flags_runRows (img : BootImage) {rows : List MicroOp} :
    ∀ s : State, (∀ m ∈ rows, m.loadsFlags = false) → (s.runRows img rows).flags = s.flags := by
  induction rows with
  | nil => exact fun _ _ => rfl
  | cons m rows ih =>
    intro s h
    obtain ⟨hm, hrows⟩ := List.forall_mem_cons.1 h
    rw [runRows_cons, ih _ hrows, flags_runRow img s hm]

theorem ir_runRow {m : MicroOp} (img : BootImage) (s : State) (h : m.select ≠ .ir) : (s.runRow img m).ir = s.ir :=
  if_neg h

/-! ## The fetch (`30_encoding.md` R63) -/

theorem opcode_fetchInstr (s : State) : s.fetchInstr.opcode = s.readMem s.pc := opcode_decodeBytes _ _ _ _

/-- The operand bytes of the instruction at the pc are the bytes after its opcode byte. -/
theorem operandBytes_fetchInstr (s : State) :
    s.fetchInstr.operandBytes =
      [s.readMem (s.pc + 1), s.readMem (s.pc + 2), s.readMem (s.pc + 3)].take s.fetchInstr.operandBytes.length :=
  (operandsApart_decodeBytes _ _ _ _).operandBytes

/-- The microprogram that the opcode byte selects is the one of the instruction at the pc. -/
theorem microprogram_decodeOpcode (s : State) (flags : Nibble) :
    microprogram (decodeOpcode s.fetchInstr.opcode) flags = microprogram s.fetchInstr flags := by
  rw [opcode_fetchInstr, decodeOpcode]
  exact ((operandsApart_decodeBytes _ _ _ _).microprogram flags).symm

theorem cycle_fetch (img : BootImage) {s : State} (hs : s.atFetch = true) :
    cycle img s = .ok ((s.fetched s.fetchInstr).atRow 0, false) := by
  obtain ⟨hi, hu, hr⟩ := State.atFetch_iff.1 hs
  have hrow : ucodeRow s.flags s.ustep s.ir = fetchOp := by rw [ucodeRow, if_pos hi, if_pos hu]
  have hbus : s.busValue img .mem = s.fetchInstr.opcode := by
    rw [opcode_fetchInstr, State.busValue, State.maddr, hr]
    rfl
  rw [cycle_row img s hrow nofun nofun, fetchOp, rowInc, hbus]
  simp [State.afterRow, State.fetched, State.incPc, State.atRow, SelectUse.latches, hu]

/-! ## The rows after the fetch -/

/-- The rows of the microprogram that the opcode register and the flags select. -/
def State.rows (s : State) : List MicroOp := microprogram (decodeOpcode s.ir) s.flags

theorem ucodeRow_atRow {s : State} {n : Nat} (hi : flagI s.flags = true) (hn : n < 15) :
    ucodeRow (s.atRow n).flags (s.atRow n).ustep (s.atRow n).ir = s.rows.getD n idleOp := by
  have hstep : (s.atRow n).ustep.toNat = n + 1 := Nat.mod_eq_of_lt (by omega)
  have hne : (s.atRow n).ustep ≠ 0 := by
    intro e
    rw [e] at hstep
    cases hstep
  rw [ucodeRow, if_neg hne, hstep]
  exact if_pos hi

theorem atRow_ne_wrap (s : State) {n : Nat} (hn : n < 14) : (s.atRow n).ustep ≠ 15 := by
  intro e
  have hstep : (s.atRow n).ustep.toNat = n + 1 := Nat.mod_eq_of_lt (by omega)
  rw [e] at hstep
  change 15 = n + 1 at hstep
  omega

theorem afterRow_atRow {m : MicroOp} (img : BootImage) (s : State) (n : Nat) (h : m.select ≠ .rst) :
    (s.atRow n).afterRow m ((s.atRow n).busValue img m.source) = (s.runRow img m).atRow (n + 1) := by
  have hbus : (s.atRow n).busValue img m.source = s.busValue img m.source := by cases m.source <;> rfl
  have hstep : (s.atRow n).ustep + 1 = BitVec.ofNat 4 (n + 1 + 1) := (BitVec.ofNat_add ..).symm
  simp only [hbus, State.afterRow, if_neg h, hstep]
  rfl

theorem afterRow_atRow_rst {m : MicroOp} (img : BootImage) (s : State) (n : Nat) (h : m.select = .rst) :
    (s.atRow n).afterRow m ((s.atRow n).busValue img m.source) = s.runRow img m := by
  have hbus : (s.atRow n).busValue img m.source = s.busValue img m.source := by cases m.source <;> rfl
  simp only [hbus, State.afterRow, State.runRow, if_pos h]
  rfl

section
variable {s : State} {m : MicroOp} {n : Nat} (img : BootImage) (fuel done : Nat) (hi : flagI s.flags = true)
include hi

theorem slotLoop_atRow (hm : s.rows.getD n idleOp = m) (hn : n < 14) (hq : m.isQuiet = true) :
    slotLoop img (fuel + 1) done (s.atRow n) = slotLoop img fuel (done + 1) ((s.runRow img m).atRow (n + 1)) := by
  obtain ⟨hsource, hio, -, hrst⟩ := MicroOp.isQuiet_iff.1 hq
  rw [slotLoop_row img fuel done _ ((ucodeRow_atRow hi (by omega)).trans hm) hsource hio hrst (atRow_ne_wrap s hn),
    afterRow_atRow img s n hrst]

theorem slotLoop_atRow_rst (hm : s.rows.getD n idleOp = m) (hn : n < 15) (hsource : m.source ≠ .io)
    (hrst : m.select = .rst) :
    slotLoop img (fuel + 1) done (s.atRow n) = .complete (s.runRow img m) (done + 1) := by
  rw [slotLoop_rst img fuel done _ ((ucodeRow_atRow hi hn).trans hm) hsource hrst, afterRow_atRow_rst img s n hrst]

end

theorem afterRow_idle (s : State) (bus : Byte) : s.afterRow idleOp bus = { s with ustep := s.ustep + 1 } := rfl

theorem runRow_idle (img : BootImage) (s : State) : s.runRow img idleOp = s := rfl

/-- Past the last row of the microprogram the slot idles to the wrap of the counter (`42_move_and_load.md` R130). -/
theorem slotLoop_idle (img : BootImage) {s : State} (hi : flagI s.flags = true) (k : Nat) :
    ∀ done n : Nat, s.rows.length ≤ n → n + k = 14 →
      slotLoop img (k + 1) done (s.atRow n) = .complete s.endPlain (done + k + 1) := by
  induction k with
  | zero =>
    intro done n hrows hn
    obtain rfl : n = 14 := hn
    have hidle := (ucodeRow_atRow hi (by decide)).trans (List.getD_eq_default _ _ hrows)
    rw [slotLoop_wrap img 0 done _ hidle nofun nofun rfl, afterRow_idle]
    simp [State.atRow, State.endPlain]
  | succ k ih =>
    intro done n hrows hn
    rw [slotLoop_atRow img _ done hi (List.getD_eq_default _ _ hrows) (by omega) (by decide), runRow_idle,
      ih (done + 1) (n + 1) (by omega) (by omega)]
    simp only [Nat.add_assoc, Nat.add_comm 1]

/-! ## A microprogram that ends in `RST` -/

/-- Quiet rows, then `RST` (`30_encoding.md` R63). -/
def endsInRst : List MicroOp → Bool
  | [] => false
  | [m] => m == rstOp
  | m :: rows => m.isQuiet && endsInRst rows

theorem endsInRst_cons (m : MicroOp) {rows : List MicroOp} (h : rows ≠ []) :
    endsInRst (m :: rows) = (m.isQuiet && endsInRst rows) := by
  cases rows with
  | nil => exact absurd rfl h
  | cons => rfl

/-- Of the rows under some flags, beside those under other flags: what comes after a row that loads the flags does not
depend on them, and loads them no more. -/
def Settles : List MicroOp → List MicroOp → Prop
  | [], _ => True
  | m :: rows, rows' =>
    if m.loadsFlags then rows'.tail = rows ∧ rows.all (fun x => !x.loadsFlags) = true else Settles rows rows'.tail

theorem settles_of_forall {rows : List MicroOp} (h : ∀ m ∈ rows, m.loadsFlags = false) :
    ∀ rows' : List MicroOp, Settles rows rows' := by
  induction rows with
  | nil => exact fun _ => trivial
  | cons m rows ih =>
    intro rows'
    obtain ⟨hm, hrows⟩ := List.forall_mem_cons.1 h
    simp [Settles, hm, ih hrows]

/-- The slot, from the state with `n` rows done, when the rows left end in `RST`. -/
theorem slotLoop_rows (img : BootImage) (fuel : Nat) (rows : List MicroOp) :
    ∀ (n done : Nat) (s : State), flagI s.flags = true → s.rows.drop n = rows → n + rows.length ≤ 15 →
      endsInRst rows = true → (∀ g : Nibble, Settles rows ((microprogram (decodeOpcode s.ir) g).drop n)) →
      flagI (s.runRows img rows).flags = true →
      slotLoop img (fuel + rows.length) done (s.atRow n) = .complete (s.runRows img rows) (done + rows.length) := by
  induction rows with
  | nil => exact fun _ _ _ _ _ _ hend => nomatch hend
  | cons m rows ih =>
    intro n done s hi hrows hlen hend hsettles hfinal
    have hm : s.rows.getD n idleOp = m := by
      rw [List.getD_eq_getElem?_getD, ← List.head?_drop, hrows]
      rfl
    have hrest : s.rows.drop (n + 1) = rows := by rw [← List.tail_drop, hrows]; rfl
    rw [List.length_cons] at hlen
    by_cases hnil : rows = []
    · subst hnil
      obtain rfl : m = rstOp := eq_of_beq hend
      exact slotLoop_atRow_rst img fuel done hi hm (by omega) nofun rfl
    rw [endsInRst_cons m hnil, Bool.and_eq_true] at hend
    obtain ⟨hquiet, hend⟩ := hend
    obtain ⟨-, -, hir, -⟩ := MicroOp.isQuiet_iff.1 hquiet
    have hlen' : 1 ≤ rows.length := List.length_pos_iff.2 hnil
    have hir' : (s.runRow img m).ir = s.ir := ir_runRow img s hir
    rw [List.length_cons, ← Nat.add_assoc, slotLoop_atRow img _ done hi hm (by omega) hquiet, ← Nat.add_assoc,
      Nat.add_right_comm done]
    rw [runRows_cons] at hfinal
    simp only [Settles, List.tail_drop] at hsettles
    cases hloads : m.loadsFlags with
    | false =>
      have hflags := flags_runRow img s hloads
      refine ih (n + 1) (done + 1) (s.runRow img m) (by rwa [hflags]) ?_ (by omega) hend ?_ hfinal
      · rw [State.rows, hir', hflags]; exact hrest
      · rw [hir']; simpa [hloads] using hsettles
    | true =>
      simp only [hloads, if_true] at hsettles
      have hall : ∀ x ∈ rows, x.loadsFlags = false := by simpa using (hsettles 0).2
      have hflags := flags_runRows img (s.runRow img m) hall
      refine ih (n + 1) (done + 1) (s.runRow img m) (by rwa [← hflags]) ?_ (by omega) hend ?_ hfinal
      · rw [State.rows, hir']; exact (hsettles _).1
      · exact fun g => settles_of_forall hall _

/-! ## The microprograms (`30_encoding.md` R66) -/

/-- `NOP` and the unmapped opcodes, whose microprogram has no row. -/
def idles : Instr → Bool
  | .nop | .unmapped0E _ | .unmappedEC _ | .unmappedF0 _ => true
  | _ => false

/-- The instructions with a row that accesses a port. -/
def accessesPort : Instr → Bool
  | .out _ _ | .inp _ _ | .outi _ _ => true
  | _ => false

theorem microprogram_of_idles {i : Instr} (h : idles i = true) (f : Nibble) : microprogram i f = [] := by
  cases i with
  | nop | unmapped0E | unmappedEC | unmappedF0 => rfl
  | _ => cases h

theorem endsInRst_jumpOps (taken : Bool) : endsInRst (jumpOps taken) = true := by cases taken <;> rfl

theorem length_jumpOps (taken : Bool) : (jumpOps taken).length = 4 := by cases taken <;> rfl

theorem settles_jumpOps (taken : Bool) (rows : List MicroOp) : Settles (jumpOps taken) rows := by
  cases taken <;> trivial

theorem endsInRst_microprogram {i : Instr} (hidles : idles i = false) (hport : accessesPort i = false) (f : Nibble) :
    endsInRst (microprogram i f) = true := by
  cases i with
  | nop | unmapped0E | unmappedEC | unmappedF0 => cases hidles
  | out | inp | outi => cases hport
  | incc | decc | rcr => simp only [microprogram]; cases flagC f <;> rfl
  | jmp | jz | jnz | jc | jnc | js | jbe | jae => exact endsInRst_jumpOps _
  | _ => rfl

/-- The slot takes a cycle for the fetch and one for each row, or all sixteen when no row ends it. -/
theorem steps_eq (i : Instr) (f : Nibble) : i.steps = if idles i then 16 else (microprogram i f).length + 1 := by
  cases i with
  | incc | decc | rcl | rcr => simp only [microprogram]; cases flagC f <;> rfl
  | jmp | jz | jnz | jc | jnc | js | jbe | jae => exact congrArg (· + 1) (length_jumpOps _).symm
  | _ => rfl

theorem settles_microprogram (i : Instr) (f g : Nibble) : Settles (microprogram i f) (microprogram i g) := by
  cases i with
  | incc | decc | rcl | rcr => simp only [microprogram]; cases flagC f <;> cases flagC g <;> exact And.intro rfl rfl
  | inc | dec | shl | shr | add | addi | tst | stf => exact And.intro rfl rfl
  | jmp | jz | jnz | jc | jnc | js | jbe | jae => exact settles_jumpOps _ _
  | _ => trivial

theorem steps_le (i : Instr) : i.steps ≤ 16 := by
  unfold Instr.steps
  split <;> decide

theorem length_microprogram_le (i : Instr) (f : Nibble) : (microprogram i f).length ≤ 15 := by
  have hsteps := steps_eq i f
  have hle := steps_le i
  split at hsteps
  next h => simp [microprogram_of_idles h]
  · omega

theorem rows_fetched (s : State) : (s.fetched s.fetchInstr).rows = microprogram s.fetchInstr s.flags :=
  microprogram_decodeOpcode s s.flags

/-! ## The slot of an instruction -/

section
variable (img : BootImage) {s : State} (hs : s.atFetch = true)
include hs

/-- The slot after its fetch. -/
theorem slotEnd_of_atFetch : slotEnd img s = slotLoop img 15 1 ((s.fetched s.fetchInstr).atRow 0) := by
  rw [slotEnd, slotLoop, cycle_fetch img hs]

theorem flagI_fetched : flagI (s.fetched s.fetchInstr).flags = true := (State.atFetch_iff.1 hs).1

/-- The slot of an instruction without rows idles to its end. -/
theorem slotEnd_of_idles (h : idles s.fetchInstr = true) :
    slotEnd img s = .complete (s.fetched s.fetchInstr).endPlain s.fetchInstr.steps := by
  have hrows : (s.fetched s.fetchInstr).rows.length ≤ 0 := by rw [rows_fetched, microprogram_of_idles h]; rfl
  rw [slotEnd_of_atFetch img hs, slotLoop_idle img (flagI_fetched hs) 14 1 0 hrows rfl, steps_eq _ 0, if_pos h]

/-- The slot of an instruction whose rows end in `RST` ends in the state after them, if that is one of the normal
regime. -/
theorem slotEnd_of_endsInRst {t : State} (hend : endsInRst (microprogram s.fetchInstr s.flags) = true)
    (ht : (s.fetched s.fetchInstr).runRows img (microprogram s.fetchInstr s.flags) = t) (hi : flagI t.flags = true) :
    slotEnd img s = .complete t s.fetchInstr.steps := by
  have hidles : ¬idles s.fetchInstr = true := fun h => by simp [microprogram_of_idles h, endsInRst] at hend
  have hlen := length_microprogram_le s.fetchInstr s.flags
  have hloop := slotLoop_rows img (15 - (microprogram s.fetchInstr s.flags).length) _ 0 1 (s.fetched s.fetchInstr)
    (flagI_fetched hs) (rows_fetched s) (by omega) hend
    (fun g => (microprogram_decodeOpcode s g).symm ▸ settles_microprogram _ s.flags g) (ht ▸ hi)
  rw [Nat.sub_add_cancel hlen, ht] at hloop
  rw [slotEnd_of_atFetch img hs, hloop, steps_eq _ s.flags, if_neg hidles, Nat.add_comm]

end

end Sys2Proof.Machine

/-! SUPPORT. What the rows of a microprogram do, in the operations of the instructions' meanings: the rules for one row,
then one equation for each sequence that the microprograms share (`30_encoding.md` R74, R75). -/

namespace Sys2Proof.Machine

/-! ## The select (`10_state.md` R19) -/

/-- The state with a slot of the register-file page selected, routing on (`30_encoding.md` R74). -/
def State.onSlot (s : State) (x : Slot) : State := { s with bsel := 0b1#1 ++ slotIndex x }

/-- The state with an ALU operation selected, routing off (`30_encoding.md` R74). -/
def State.onAlu (s : State) (op : AluOp) : State := { s with bsel := 0b0#1 ++ aluSelector op }

section
variable (s : State) (x y : Slot) (op op' : AluOp) (v : Byte)

@[simp] theorem onSlot_onSlot : (s.onSlot y).onSlot x = s.onSlot x := rfl
@[simp] theorem onAlu_onSlot : (s.onSlot y).onAlu op = s.onAlu op := rfl
@[simp] theorem onSlot_onAlu : (s.onAlu op).onSlot x = s.onSlot x := rfl
@[simp] theorem onAlu_onAlu : (s.onAlu op').onAlu op = s.onAlu op := rfl

@[simp] theorem setT_onSlot : (s.onSlot x).setT v = (s.setT v).onSlot x := rfl
@[simp] theorem setT_onAlu : (s.onAlu op).setT v = (s.setT v).onAlu op := rfl
@[simp] theorem setFlags_onSlot (f : Nibble) : (s.onSlot x).setFlags f = (s.setFlags f).onSlot x := rfl
@[simp] theorem setFlags_onAlu (f : Nibble) : (s.onAlu op).setFlags f = (s.setFlags f).onAlu op := rfl
@[simp] theorem setPc_onSlot (hi lo : Byte) : (s.onSlot x).setPc hi lo = (s.setPc hi lo).onSlot x := rfl
@[simp] theorem setPc_onAlu (hi lo : Byte) : (s.onAlu op).setPc hi lo = (s.setPc hi lo).onAlu op := rfl
@[simp] theorem incPc_onSlot : (s.onSlot x).incPc = s.incPc.onSlot x := rfl
@[simp] theorem incPc_onAlu : (s.onAlu op).incPc = s.incPc.onAlu op := rfl
@[simp] theorem endPlain_onAlu_passl : (s.onAlu .passl).endPlain = s.endSlot := rfl

@[simp] theorem onSlot_t : (s.onSlot x).t = s.t := rfl
@[simp] theorem onAlu_t : (s.onAlu op).t = s.t := rfl
@[simp] theorem onSlot_al : (s.onSlot x).al = s.al := rfl
@[simp] theorem onAlu_al : (s.onAlu op).al = s.al := rfl
@[simp] theorem onSlot_ah : (s.onSlot x).ah = s.ah := rfl
@[simp] theorem onAlu_ah : (s.onAlu op).ah = s.ah := rfl

theorem maddr_onSlot : (s.onSlot x).maddr = slotAddr x := by
  cases x <;> simp [State.maddr, State.route, State.sel, State.onSlot, slotAddr, slotIndex]

theorem maddr_onAlu : (s.onAlu op).maddr = s.pc := by
  cases op <;> simp [State.maddr, State.route, State.onAlu, aluSelector] <;> rfl

theorem maddr_of_route (h : s.route = false) : s.maddr = s.pc := by
  rw [State.maddr, h]
  rfl

end

/-! ## The order of operations in the middle of a slot -/

section
variable (s : State) (hi lo v : Byte)

@[simp] theorem setPc_setPc (hi' lo' : Byte) : (s.setPc hi' lo').setPc hi lo = s.setPc hi lo := rfl
@[simp] theorem setT_setPc : (s.setPc hi lo).setT v = (s.setT v).setPc hi lo := rfl
@[simp] theorem setFlags_setPc (f : Nibble) : (s.setPc hi lo).setFlags f = (s.setFlags f).setPc hi lo := rfl
@[simp] theorem writeMem_setPc (a : Addr) : (s.setPc hi lo).writeMem a v = (s.writeMem a v).setPc hi lo := rfl
@[simp] theorem setSlot_setPc (x : Slot) : (s.setPc hi lo).setSlot x v = (s.setSlot x v).setPc hi lo := rfl
@[simp] theorem restorePc_setPc : (s.setPc hi lo).restorePc = s.restorePc := rfl

@[simp] theorem setT_setT (w : Byte) : (s.setT w).setT v = s.setT v := rfl
@[simp] theorem setFlags_setT (f : Nibble) : (s.setT v).setFlags f = (s.setFlags f).setT v := rfl
@[simp] theorem setFlags_setSlot (x : Slot) (f : Nibble) :
    (s.setSlot x v).setFlags f = (s.setFlags f).setSlot x v := rfl
@[simp] theorem pushByte_setT (w : Byte) : (s.setT w).pushByte v = s.pushByte v := rfl
@[simp] theorem setSlot_setT (x : Slot) (w : Byte) : (s.setT v).setSlot x w = (s.setSlot x w).setT v := rfl
@[simp] theorem savePc_setT : (s.setT v).savePc = s.savePc.setT v := rfl
@[simp] theorem slot_setT (x : Slot) : (s.setT v).slot x = s.slot x := rfl
@[simp] theorem slot_incPc (x : Slot) : s.incPc.slot x = s.slot x := rfl

/-- The increment of the address register, by its two bytes (`41_cycle.md` R116). -/
theorem incPc_setPc :
    (s.setPc hi lo).incPc = s.setPc (hiByte (joinBytes hi lo + 1)) (loByte (joinBytes hi lo + 1)) := by
  rw [← joinBytes_inc, hiByte_joinBytes, loByte_joinBytes]
  rfl

end

/-! ## The ALU by its operations (`40_alu_operations.md` R90) -/

/-- The function of an ALU operation. -/
@[simp] def AluOp.eval (img : BootImage) : AluOp → Byte → Byte → Byte
  | .passl, _, l => l
  | .passr, r, _ => r
  | .nand, r, l => aluNand r l
  | .or, r, l => aluOr r l
  | .add, r, l => aluAdd r l
  | .addf, r, l => aluAddf r l
  | .unary, r, l => aluUnary r l
  | .boot, r, l => aluBoot img r l

theorem alu_aluSelector (img : BootImage) (op : AluOp) (r l : Byte) :
    alu img (aluSelector op) r l = op.eval img r l := by cases op <;> rfl

/-- The selector code as the byte that the constant source drives while the operation is selected (`41_cycle.md`
R113). -/
@[simp] def AluOp.code : AluOp → Byte
  | .passl => 0x00
  | .passr => 0x01
  | .nand => 0x02
  | .or => 0x03
  | .add => 0x04
  | .addf => 0x05
  | .unary => 0x06
  | .boot => 0x07

@[simp] theorem aluNand_zero (l : Byte) : aluNand 0#8 l = 0xFF#8 := by simp [aluNand]

@[simp] theorem busFlags_aluAddf (r l : Byte) : busFlags (aluAddf r l) = addFlags r l := busFlags_flagByte _

@[simp] theorem aluUnary_two (l : Byte) : aluUnary 2#8 l = l >>> 1 := rfl

@[simp] theorem busFlags_aluUnary_three (l : Byte) : busFlags (aluUnary 3#8 l) = shrFlags l := busFlags_flagByte _

/-! ## What drives the bus (`41_cycle.md` R112, R113) -/

section
variable (img : BootImage) (s : State) (x : Slot) (op : AluOp)

@[simp] theorem busValue_temp : s.busValue img .temp = s.t := rfl

@[simp] theorem busValue_mem_onSlot : (s.onSlot x).busValue img .mem = s.slot x :=
  congrArg s.readMem (maddr_onSlot s x)

@[simp] theorem busValue_mem_onAlu : (s.onAlu op).busValue img .mem = s.readMem s.pc :=
  congrArg s.readMem (maddr_onAlu s op)

theorem busValue_mem_of_route (h : s.route = false) : s.busValue img .mem = s.readMem s.pc :=
  congrArg s.readMem (maddr_of_route s h)

@[simp] theorem busValue_const_onAlu : (s.onAlu op).busValue img .const = op.code := by
  change constByte (0b0#1 ++ aluSelector op) = _
  cases op <;> decide

@[simp] theorem busValue_const_onSlot_pl : (s.onSlot .pl).busValue img .const = 0x80 := by
  change constByte (0b1#1 ++ slotIndex .pl) = _
  decide

theorem sel_onAlu : (s.onAlu op).sel = aluSelector op := BitVec.extractLsb'_append_eq_right

theorem sel_onSlot : (s.onSlot x).sel = slotIndex x := BitVec.extractLsb'_append_eq_right

@[simp] theorem busValue_alu_onAlu : (s.onAlu op).busValue img .alu = op.eval img s.ah s.al :=
  (congrArg (fun sel => alu img sel s.ah s.al) (sel_onAlu s op)).trans (alu_aluSelector img op _ _)

/-- The slots `PL` and `PH` select `PASSL` and `PASSR` (`30_encoding.md` R75). -/
@[simp] theorem busValue_alu_onSlot_pl : (s.onSlot .pl).busValue img .alu = s.al :=
  congrArg (fun sel => alu img sel s.ah s.al) (sel_onSlot s .pl)

@[simp] theorem busValue_alu_onSlot_ph : (s.onSlot .ph).busValue img .alu = s.ah :=
  congrArg (fun sel => alu img sel s.ah s.al) (sel_onSlot s .ph)

end

/-! ## One row -/

/-- The loads of a row (`41_cycle.md` R115). -/
def State.load (s : State) (bus : Byte) (loads : List Load) : State :=
  { s with
    mem := if Load.mem ∈ loads then s.mem.write s.maddr bus else s.mem
    t := if Load.temp ∈ loads then bus else s.t
    flags := if Load.flags ∈ loads then busFlags bus else s.flags
    al := if Load.al ∈ loads then bus else s.al
    ah := if Load.ah ∈ loads then bus else s.ah }

section
variable (s : State) (bus : Byte) (x : Slot) (op : AluOp)

@[simp] theorem load_nil : s.load bus [] = s := rfl
@[simp] theorem load_temp : s.load bus [.temp] = s.setT bus := rfl
@[simp] theorem load_flags : s.load bus [.flags] = s.setFlags (busFlags bus) := rfl
@[simp] theorem load_al : s.load bus [.al] = s.setPc s.ah bus := rfl
@[simp] theorem load_ah : s.load bus [.ah] = s.setPc bus s.al := rfl
@[simp] theorem load_al_ah : s.load bus [.al, .ah] = s.setPc bus bus := rfl

@[simp] theorem load_mem_onSlot : (s.onSlot x).load bus [.mem] = (s.setSlot x bus).onSlot x :=
  congrArg (fun a => (s.writeMem a bus).onSlot x) (maddr_onSlot s x)

@[simp] theorem load_mem_onAlu : (s.onAlu op).load bus [.mem] = (s.writeMem s.pc bus).onAlu op :=
  congrArg (fun a => (s.writeMem a bus).onAlu op) (maddr_onAlu s op)

@[simp] theorem load_mem_al_onSlot :
    (s.onSlot x).load bus [.mem, .al] = ((s.setSlot x bus).setPc s.ah bus).onSlot x :=
  congrArg (fun a => ((s.writeMem a bus).setPc s.ah bus).onSlot x) (maddr_onSlot s x)

variable (img : BootImage) (source : BusSource) (loads : List Load) (select : SelectUse)

@[simp] theorem runRow_toSlot :
    s.runRow img (row source loads (toSlot x)) = (s.load (s.busValue img source) loads).onSlot x := rfl

@[simp] theorem runRow_toAlu :
    s.runRow img (row source loads (toAlu op)) = (s.load (s.busValue img source) loads).onAlu op := rfl

@[simp] theorem toReg_eq (r : Reg) : toReg r = toSlot (regSlot r) := rfl

@[simp] theorem runRow_none : s.runRow img (row source loads .none) = s.load (s.busValue img source) loads := rfl

@[simp] theorem runRow_rst : s.runRow img rstOp = s.endPlain := rfl

@[simp] theorem runRow_rowInc {loads : List Load} (hal : Load.al ∉ loads) (hah : Load.ah ∉ loads) :
    s.runRow img (rowInc source loads select) = (s.runRow img (row source loads select)).incPc := by
  simp [State.runRow, State.afterRow, State.incPc, row, rowInc, hal, hah]
  and_intros <;> rfl

end

/-! ## The sequences (`30_encoding.md` R75) -/

section
variable (img : BootImage) (s : State) (x : Slot) (op : AluOp) (r q : Reg)

@[simp] theorem runRows_saveTail_toSlot : (s.onSlot .pl).runRows img (saveTail (toSlot x)) = s.savePc.onSlot x := by
  simp [saveTail, State.savePc]

@[simp] theorem runRows_saveOps_toSlot : s.runRows img (saveOps (toSlot x)) = s.savePc.onSlot x := by
  simp [saveOps, State.savePc]

@[simp] theorem runRows_saveOps_toAlu : s.runRows img (saveOps (toAlu op)) = s.savePc.onAlu op := by
  simp [saveOps, State.savePc]

@[simp] theorem runRows_restoreOps : (s.onSlot .ph).runRows img restoreOps = s.restorePc := by
  simp [restoreOps, State.restorePc]

@[simp] theorem runRows_writeBackOps (p : Pair) (hi lo : Byte) :
    ((s.setPc hi lo).onAlu .passl).runRows img (writeBackOps p) =
      ((s.writeBack p (joinBytes hi lo)).setPc hi lo).onSlot .ph := by
  simp [writeBackOps, State.writeBack, State.result]

@[simp] theorem runRows_addTail (k v : Byte) :
    ((s.setPc k v).onAlu .add).runRows img (addTail r) = s.arithmetic r (aluAdd k v) (addFlags k v) := by
  simp [addTail, State.arithmetic, State.result]

@[simp] theorem runRows_pushOps :
    (s.onSlot .sp).runRows img (pushOps (toSlot x)) = ((s.pushByte s.t).setPc 0xFF (s.slot .sp)).onSlot x := by
  simp [pushOps, State.pushByte, State.result, stackAddr]

theorem slot_sp_raiseSp {s : State} (hwf : s.mem.wf = true) : s.raiseSp.slot .sp = aluAdd 0x01 (s.slot .sp) :=
  (readMem_result hwf .sp _ _).trans (if_pos rfl)

theorem runRows_popOps {s : State} (hwf : s.mem.wf = true) :
    (s.onSlot .sp).runRows img popOps = (s.raiseSp.setPc 0xFF (s.raiseSp.slot .sp)).onAlu .passl := by
  rw [slot_sp_raiseSp hwf]
  simp [popOps, State.raiseSp, State.result]

/-- A double `NAND` is a bitwise and (`45_logic_bits_flags.md` R165). -/
theorem aluNand_twice (k v : Byte) : aluNand (aluNand k v) (aluNand k v) = v &&& k := by simp [aluNand]

@[simp] theorem runRows_twoPassTail_nand (k v : Byte) :
    ((s.setPc k v).onAlu .nand).runRows img (twoPassTail r) = (s.result (regSlot r) (v &&& k)).restorePc := by
  simp [twoPassTail, State.result, aluNand_twice]

@[simp] theorem runRows_twoPassTail_or (k v : Byte) :
    ((s.setPc k v).onAlu .or).runRows img (twoPassTail r) = (s.result (regSlot r) (v ||| k)).restorePc := by
  simp [twoPassTail, State.result, aluOr]

/-- `SAVE` keeps the general registers. -/
@[simp] theorem slot_regSlot_savePc : s.savePc.slot (regSlot r) = s.slot (regSlot r) := reg_savePc s r

@[simp] theorem runRows_twoRegHead :
    s.runRows img (twoRegHead r q op) = (s.savePc.setPc (s.reg q) (s.reg r)).onAlu op := by
  simp [twoRegHead, State.reg]

@[simp] theorem runRows_storeHead (p : Pair) :
    s.runRows img (storeHead p r) =
      ((s.setT (s.reg r)).savePc.setPc ((s.setT (s.reg r)).savePc.slot (pairHigh p))
        ((s.setT (s.reg r)).savePc.slot (pairLow p))).onAlu .passl := by
  simp [storeHead, State.reg]

/-! ## The sequences that read operand bytes, where routing is off -/

section
variable {s} (hroute : s.route = false)
include hroute

theorem runRows_immHead {imm : Byte} (himm : s.readMem s.pc = imm) :
    s.runRows img (immHead r op) = ((s.takeOperand imm).savePc.setPc imm (s.reg r)).onAlu op := by
  simp [immHead, busValue_mem_of_route img s hroute, himm, State.takeOperand, State.reg]

/-- The rows that take both bytes of a 16-bit operand, low byte first, and select a slot (`43_memory_access.md` R144,
`46_stack_and_control.md` R186). -/
def addressOps (x : Slot) : List MicroOp :=
  [rowInc .mem [.temp] (toSlot .w), row .temp [.mem] (toAlu .passl), rowInc .mem [.temp] (toSlot x)]

/-- The second byte is read where the first has passed through `W`. -/
theorem runRows_addressOps {before : State} {lo hi : Byte} (hlo : s.readMem s.pc = lo)
    (hhi : before.readMem (s.pc + 1#16) = hi) :
    s.runRows img (addressOps x) = (s.takeAddress before lo hi).onSlot x := by
  have hlate : ((s.takeOperand lo).setSlot .w lo).lateByte before hi =
      ((s.takeOperand lo).setSlot .w lo).readMem (s.pc + 1#16) := by
    rw [lateByte_eq_readMem (by simpa using hhi)]
    simp
  simp [addressOps, busValue_mem_of_route img s hroute, State.takeAddress, hlate, hlo]
  simp [State.takeOperand]

end

end

end Sys2Proof.Machine

/-! SUPPORT. The rows of every instruction's microprogram compute the instruction's meaning (`30_encoding.md` R66,
`41_cycle.md` R119). -/

namespace Sys2Proof.Machine

/-- The rows of an instruction's microprogram, run from the state after its fetch, do what its meaning says. -/
def RowsImplement (img : BootImage) (i : Instr) (s : State) : Prop :=
  exec i s = .next ((s.fetched i).runRows img (microprogram i s.flags))

/-! ## The operand bytes at the pc (`30_encoding.md` R69) -/

section
variable {s : State} {i : Instr} (hi : s.fetchInstr = i)
include hi

theorem operandBytes_of_fetchInstr :
    i.operandBytes =
      [s.readMem (s.pc + 1#16), s.readMem (s.pc + 1#16 + 1#16), s.readMem (s.pc + 1#16 + 1#16 + 1#16)].take
        i.operandBytes.length := by
  have h := operandBytes_fetchInstr s
  rwa [hi, show s.pc + 2 = s.pc + 1#16 + 1#16 by bv_omega, show s.pc + 3 = s.pc + 1#16 + 1#16 + 1#16 by bv_omega] at h

theorem readMem_first_operand {x : Byte} {rest : List Byte} (h : i.operandBytes = x :: rest) :
    s.readMem (s.pc + 1#16) = x := by
  have hbytes := operandBytes_of_fetchInstr hi
  rw [h] at hbytes
  exact (List.cons.inj hbytes).1.symm

theorem rows_of_fetchInstr : (s.fetched i).rows = microprogram i s.flags := by
  rw [← hi]
  exact rows_fetched s

theorem readMem_pc_fetched {x : Byte} {rest : List Byte} (h : i.operandBytes = x :: rest) :
    (s.fetched i).readMem (s.fetched i).pc = x := by
  rw [pc_fetched, readMem_fetched]
  exact readMem_first_operand hi h

theorem readMem_second_operand {x y : Byte} {rest : List Byte} (h : i.operandBytes = x :: y :: rest) :
    s.readMem (s.pc + 1#16 + 1#16) = y := by
  have hbytes := operandBytes_of_fetchInstr hi
  rw [h] at hbytes
  exact (List.cons.inj (List.cons.inj hbytes).2).1.symm

theorem readMem_third_operand {x y z : Byte} (h : i.operandBytes = [x, y, z]) :
    s.readMem (s.pc + 1#16 + 1#16 + 1#16) = z := by
  have hbytes := operandBytes_of_fetchInstr hi
  rw [h] at hbytes
  exact (List.cons.inj (List.cons.inj (List.cons.inj hbytes).2).2).1.symm

end

section
variable (img : BootImage) (s : State) (r q : Reg) (p : Pair)

/-! ## No-ops and moves -/

theorem rowsImplement_brk : RowsImplement img .brk s := by
  simp [RowsImplement, exec, execBrk, microprogram]

theorem rowsImplement_skp : RowsImplement img .skp s := by
  simp [RowsImplement, exec, execSkp, microprogram]

theorem rowsImplement_mov : RowsImplement img (.mov r q) s := by
  simp [RowsImplement, exec, execMov, microprogram, State.result, State.reg]

/-! ## Loads and stores through a pair -/

theorem rowsImplement_ld : RowsImplement img (.ld r p) s := by
  simp [RowsImplement, exec, execLd, microprogram, loadOps, State.result, State.pairAddr]

theorem rowsImplement_ldpi : RowsImplement img (.ldpi r p) s := by
  simp [RowsImplement, exec, execLdpi, microprogram, loadIncOps, incPc_setPc, State.result, State.pairAddr]

theorem rowsImplement_st : RowsImplement img (.st p r) s := by
  simp [RowsImplement, exec, execSt, microprogram, storeOps, State.pairAddr]

theorem rowsImplement_stpi : RowsImplement img (.stpi p r) s := by
  simp [RowsImplement, exec, execStpi, microprogram, storeIncOps, incPc_setPc, State.pairAddr]

/-! ## Arithmetic and shifts -/

theorem rowsImplement_inc : RowsImplement img (.inc r) s := by
  simp [RowsImplement, exec, execInc, microprogram, addOneOps, runRow_idle, State.addTo, State.reg]

theorem rowsImplement_dec : RowsImplement img (.dec r) s := by
  simp [RowsImplement, exec, execDec, microprogram, addMinusOneOps, State.addTo, State.reg]

theorem rowsImplement_incc : RowsImplement img (.incc r) s := by
  cases hc : flagC s.flags <;>
    simp [RowsImplement, exec, execIncc, microprogram, addOneOps, addZeroOps, runRow_idle, carryByte, hc, State.addTo,
      State.reg]

theorem rowsImplement_decc : RowsImplement img (.decc r) s := by
  cases hc : flagC s.flags <;>
    simp [RowsImplement, exec, execDecc, microprogram, addMinusOneOps, addZeroOps, runRow_idle, hc, State.addTo,
      State.reg]

theorem rowsImplement_shl : RowsImplement img (.shl r) s := by
  simp [RowsImplement, exec, execShl, microprogram, shlOps, State.addTo, State.reg]

theorem rowsImplement_shr : RowsImplement img (.shr r) s := by
  simp [RowsImplement, exec, execShr, microprogram, shrOps, State.arithmetic, State.result, State.reg]

/-- The flags of `RCL` wait in `W`, which the result does not overwrite (`44_arithmetic_shift.md` R156). -/
theorem rowsImplement_rcl (hwf : s.mem.wf = true) : RowsImplement img (.rcl r) s := by
  have hw (f v : Byte) : (((s.fetched (.rcl r)).savePc.setSlot .w f).setSlot (regSlot r) v).slot .w = f := by
    have hsaved := wf_savePc (s := s.fetched (.rcl r)) hwf
    simp [slot_setSlot (wf_setSlot hsaved _ _), slot_setSlot hsaved]
  cases hc : flagC s.flags <;>
    simp [RowsImplement, exec, execRcl, microprogram, rclOps, carryByte, hc, hw, State.arithmetic, State.result,
      State.reg]

theorem rowsImplement_rcr : RowsImplement img (.rcr r) s := by
  cases hc : flagC s.flags <;>
    simp [RowsImplement, exec, execRcr, microprogram, rcrOps, rcrArm, runRow_idle, hc, State.arithmetic,
      State.result, State.reg, aluOr, BitVec.or_comm]

theorem rowsImplement_add : RowsImplement img (.add r q) s := by
  simp [RowsImplement, exec, execAdd, microprogram, State.addTo, State.reg]

theorem rowsImplement_tst : RowsImplement img (.tst r) s := by
  simp [RowsImplement, exec, execTst, microprogram, tstOps, State.reg]

/-! ## Logic and flags -/

theorem rowsImplement_and : RowsImplement img (.and r q) s := by
  simp [RowsImplement, exec, execAnd, microprogram, State.reg]

theorem rowsImplement_or : RowsImplement img (.or r q) s := by
  simp [RowsImplement, exec, execOr, microprogram, State.reg]

theorem rowsImplement_bmw : RowsImplement img (.bmw r) s := by
  simp [RowsImplement, exec, execBmw, microprogram, bmwOps, aluNand_twice, aluOr, State.result, State.reg]

theorem rowsImplement_stf (hi : flagI (busFlags (s.reg r)) = true) : RowsImplement img (.stf r) s := by
  rw [RowsImplement, exec_stf, if_pos hi]
  simp [microprogram, stfOps, State.reg]

theorem flagByte_eq_or (f : Nibble) (hi : flagI f = true) :
    flagByte f = aluOr 0x08 (aluOpOf (f.extractLsb' 0 3)).code := by
  revert f; decide

/-- The select that `LDF` latches is the operation whose code is the flags below `I`. -/
theorem latch_flags (f : Nibble) : .latch (0b0#1 ++ f.extractLsb' 0 3) = toAlu (aluOpOf (f.extractLsb' 0 3)) := by
  revert f; decide

/-- `LDF` makes the byte 0x08 and sets the flags below `I` in it (`45_logic_bits_flags.md` R176). -/
theorem rowsImplement_ldf (hi : flagI s.flags = true) : RowsImplement img (.ldf r) s := by
  have hadd : aluAdd 4#8 4#8 = 0x08 := by decide
  simp [RowsImplement, exec, execLdf, microprogram, ldfOps, latch_flags, flagByte_eq_or _ hi, hadd, State.result]

/-! ## The stack -/

theorem rowsImplement_push : RowsImplement img (.push r) s := by
  simp [RowsImplement, exec, execPush, microprogram, pushRegOps, State.reg]

theorem rowsImplement_pop (hwf : s.mem.wf = true) : RowsImplement img (.pop r) s := by
  have hpop := runRows_popOps img (wf_savePc (s := s.fetched (.pop r)) hwf)
  simp [RowsImplement, exec, execPop, microprogram, popSlotOps, hpop, State.stackTop, stackAddr, State.result]

theorem rowsImplement_retl (hwf : s.mem.wf = true) : RowsImplement img .retl s := by
  have hpop := runRows_popOps img (wf_savePc (s := s.fetched .retl) hwf)
  simp [RowsImplement, exec, execRetl, microprogram, popSlotOps, hpop, State.stackTop, stackAddr, State.result]

theorem rowsImplement_reth (hwf : s.mem.wf = true) : RowsImplement img .reth s := by
  have hpop := runRows_popOps img (s := s.fetched .reth) hwf
  simp [RowsImplement, exec, execReth, microprogram, rethOps, hpop, State.stackTop, stackAddr]

end

/-! ## Instructions with operand bytes -/

/-- An operand byte taken at the restored pc, in the order in which the rows of `BMX` take it. -/
theorem endSlot_takeOperand_restorePc (u : State) (v : Byte) :
    (u.restorePc.takeOperand v).endSlot = ((u.setT v).setPc (u.slot .ph) (u.slot .pl)).incPc.endSlot := rfl

section
variable (img : BootImage) {s : State} (hs : s.atFetch = true)
include hs

theorem route_fetched (i : Instr) : (s.fetched i).route = false := (State.atFetch_iff.1 hs).2.2

section
variable {i : Instr} {x : Byte} {rest : List Byte} (h : s.fetchInstr = i) (hbytes : i.operandBytes = x :: rest)
include h hbytes

/-- The first operand byte is what the bus carries in the cycle after the fetch. -/
theorem busValue_mem_fetched : (s.fetched i).busValue img .mem = x :=
  (busValue_mem_of_route img _ (route_fetched hs i)).trans (readMem_pc_fetched h hbytes)

theorem runRows_immHead_fetched (r : Reg) (op : AluOp) :
    (s.fetched i).runRows img (immHead r op) =
      (((s.fetched i).takeOperand x).savePc.setPc x (s.reg r)).onAlu op :=
  runRows_immHead img op r (route_fetched hs i) (readMem_pc_fetched h hbytes)

end

theorem runRows_addressOps_fetched {i : Instr} {lo hi : Byte} {rest : List Byte} (h : s.fetchInstr = i)
    (hbytes : i.operandBytes = lo :: hi :: rest) (x : Slot) :
    (s.fetched i).runRows img (addressOps x) = ((s.fetched i).takeAddress s lo hi).onSlot x :=
  runRows_addressOps img x (route_fetched hs i) (readMem_pc_fetched h hbytes)
    (by simpa using readMem_second_operand h hbytes)

variable {r : Reg} {p : Pair} {lo hi imm : Byte}

theorem rowsImplement_ldt (h : s.fetchInstr = .ldt imm) : RowsImplement img (.ldt imm) s := by
  simp [RowsImplement, exec, execLdt, microprogram, busValue_mem_fetched img hs h rfl, State.takeOperand]

theorem rowsImplement_ldi (h : s.fetchInstr = .ldi r imm) : RowsImplement img (.ldi r imm) s := by
  simp [RowsImplement, exec, execLdi, microprogram, busValue_mem_fetched img hs h rfl, State.takeOperand, State.setReg]

/-- The high byte of `LDP` is read where the low byte has been written (`42_move_and_load.md` R132). -/
theorem rowsImplement_ldp (h : s.fetchInstr = .ldp p lo hi) : RowsImplement img (.ldp p lo hi) s := by
  have hlate : (((s.fetched (.ldp p lo hi)).takeOperand lo).setSlot (pairLow p) lo).lateByte s hi = _ :=
    lateByte_eq_readMem (by simpa using readMem_second_operand h rfl)
  simp [RowsImplement, exec, execLdp, microprogram, busValue_mem_fetched img hs h rfl, hlate]
  simp [State.takeOperand]

theorem rowsImplement_lda (h : s.fetchInstr = .lda r lo hi) : RowsImplement img (.lda r lo hi) s := by
  have haddress := runRows_addressOps_fetched img hs h rfl .pl
  have hrows : loadAbsOps r = addressOps .pl ++ saveTail (toSlot .w) ++ _ := rfl
  simp [RowsImplement, exec, execLda, microprogram, hrows, haddress, State.result]

theorem rowsImplement_sta (h : s.fetchInstr = .sta lo hi r) : RowsImplement img (.sta lo hi r) s := by
  have haddress := runRows_addressOps_fetched img hs h rfl .pl
  have hrows : storeAbsOps r = addressOps .pl ++ saveTail (toSlot .w) ++ _ := rfl
  simp [RowsImplement, exec, execSta, microprogram, hrows, haddress, State.reg]

theorem rowsImplement_addi (h : s.fetchInstr = .addi r imm) : RowsImplement img (.addi r imm) s := by
  simp [RowsImplement, exec, execAddi, microprogram, runRows_immHead_fetched img hs h rfl, State.addTo, State.reg]

theorem rowsImplement_andi (h : s.fetchInstr = .andi r imm) : RowsImplement img (.andi r imm) s := by
  simp [RowsImplement, exec, execAndi, microprogram, runRows_immHead_fetched img hs h rfl, State.reg]

theorem rowsImplement_ori (h : s.fetchInstr = .ori r imm) : RowsImplement img (.ori r imm) s := by
  simp [RowsImplement, exec, execOri, microprogram, runRows_immHead_fetched img hs h rfl, State.reg]

/-- The mask byte of `BMX` is read at the restored pc, which `W` does not disturb (`45_logic_bits_flags.md` R172). -/
theorem rowsImplement_bmx (hwf : s.mem.wf = true) {xsel mask : Byte} (h : s.fetchInstr = .bmx r xsel mask) :
    RowsImplement img (.bmx r xsel mask) s := by
  have hpc : (((s.fetched (.bmx r xsel mask)).takeOperand xsel).savedResult .w (aluUnary xsel (s.reg r))).pc =
      s.pc + 1#16 + 1#16 :=
    (pc_savedResult (s := (s.fetched _).takeOperand xsel) _ hwf (by decide)).trans (by simp)
  have hlate := lateByte_eq_readMem (before := s) (v := mask) (hpc ▸ readMem_second_operand h rfl)
  simp [RowsImplement, exec_bmx, hlate, microprogram, bmxOps, runRows_immHead_fetched img hs h rfl]
  simp [State.savedResult, endSlot_takeOperand_restorePc, State.result]

theorem rowsImplement_pshi (h : s.fetchInstr = .pshi imm) : RowsImplement img (.pshi imm) s := by
  simp [RowsImplement, exec, execPshi, microprogram, pushImmOps, busValue_mem_fetched img hs h rfl, State.takeOperand]

/-- The fourth byte of `CALJ` is read where the target has passed through `W` and `PH` (`46_stack_and_control.md`
R186). -/
theorem rowsImplement_calj (h : s.fetchInstr = .calj lo hi imm) : RowsImplement img (.calj lo hi imm) s := by
  have haddress := runRows_addressOps_fetched img hs h rfl .ph
  have hrows : caljOps = addressOps .ph ++ _ := rfl
  have hpc : ((s.fetched (.calj lo hi imm)).takeAddress s lo hi).pc = s.pc + 1#16 + 1#16 + 1#16 := by
    simp [State.takeAddress]
  simp [RowsImplement, exec, execCalj, microprogram, hrows, haddress]
  generalize (s.fetched (.calj lo hi imm)).takeAddress s lo hi = u at hpc ⊢
  have hlate : (u.setSlot .ph u.t).lateByte s imm = _ :=
    lateByte_eq_readMem (by simpa [hpc] using readMem_third_operand h rfl)
  simp [hlate]

end

/-! ## Jumps -/

section
variable (img : BootImage) {s : State} {lo hi : Byte}

/-- A jump takes its target, or passes it (`46_stack_and_control.md` R189). -/
theorem runRows_jumpOps (hs : s.route = false) (taken : Bool) (hlo : s.readMem s.pc = lo)
    (hhi : s.readMem (s.pc + 1#16) = hi) : s.runRows img (jumpOps taken) = s.jump taken lo hi := by
  have hhi' : (s.setT lo).incPc.busValue img .mem = hi :=
    (busValue_mem_of_route img (s.setT lo).incPc hs).trans (by simpa using hhi)
  cases taken with
  | false => simp [jumpOps, runRow_idle, State.jump]
  | true =>
    simp [jumpOps, State.jump, busValue_mem_of_route img s hs, hlo, hhi']
    rfl

theorem runRows_jumpOps_fetched (hs : s.atFetch = true) {i : Instr} (h : s.fetchInstr = i)
    (hbytes : i.operandBytes = [lo, hi]) (taken : Bool) :
    (s.fetched i).runRows img (jumpOps taken) = (s.fetched i).jump taken lo hi :=
  runRows_jumpOps img (route_fetched hs i) taken (readMem_pc_fetched h hbytes)
    (by simpa using readMem_second_operand h hbytes)

end

end Sys2Proof.Machine

/-! SUPPORT. The slot of every instruction through the clock cycles ends as the instruction's meaning says: the
instructions that complete by their rows, those that access a port, and the `STF` that leaves the normal regime
(`41_cycle.md` R119). -/

namespace Sys2Proof.Machine

/-! ## The instructions that complete by their rows -/

section
variable (img : BootImage) {s : State} (hs : s.atFetch = true)
include hs

theorem rowsImplement_of_jump {i : Instr} {lo hi : Byte} {taken : Bool} (h : s.fetchInstr = i)
    (hbytes : i.operandBytes = [lo, hi]) (hrows : microprogram i s.flags = jumpOps taken)
    (hexec : exec i s = .next ((s.fetched i).jump taken lo hi)) : RowsImplement img i s := by
  rw [RowsImplement, hrows, runRows_jumpOps_fetched img hs h hbytes, hexec]

/-- The rows of every instruction that has some, accesses no port and stays in the normal regime. -/
theorem rowsImplement_fetchInstr (hwf : s.mem.wf = true) (hidles : idles s.fetchInstr = false)
    (hport : accessesPort s.fetchInstr = false)
    (hstf : ∀ r : Reg, s.fetchInstr = .stf r → flagI (busFlags (s.reg r)) = true) :
    RowsImplement img s.fetchInstr s := by
  cases hi : s.fetchInstr with
  | nop | unmapped0E | unmappedEC | unmappedF0 => simp [hi, idles] at hidles
  | out | inp | outi => simp [hi, accessesPort] at hport
  | brk => exact rowsImplement_brk img s
  | skp => exact rowsImplement_skp img s
  | ldt imm => exact rowsImplement_ldt img hs hi
  | pshi imm => exact rowsImplement_pshi img hs hi
  | calj lo hi' imm => exact rowsImplement_calj img hs hi
  | retl => exact rowsImplement_retl img s hwf
  | reth => exact rowsImplement_reth img s hwf
  | ldi r imm => exact rowsImplement_ldi img hs hi
  | ldp p lo hi' => exact rowsImplement_ldp img hs hi
  | mov dst src => exact rowsImplement_mov img s dst src
  | ld r p => exact rowsImplement_ld img s r p
  | ldpi r p => exact rowsImplement_ldpi img s r p
  | st p r => exact rowsImplement_st img s r p
  | stpi p r => exact rowsImplement_stpi img s r p
  | lda r lo hi' => exact rowsImplement_lda img hs hi
  | sta lo hi' r => exact rowsImplement_sta img hs hi
  | inc r => exact rowsImplement_inc img s r
  | dec r => exact rowsImplement_dec img s r
  | incc r => exact rowsImplement_incc img s r
  | decc r => exact rowsImplement_decc img s r
  | shl r => exact rowsImplement_shl img s r
  | shr r => exact rowsImplement_shr img s r
  | rcl r => exact rowsImplement_rcl img s r hwf
  | rcr r => exact rowsImplement_rcr img s r
  | andi r imm => exact rowsImplement_andi img hs hi
  | ori r imm => exact rowsImplement_ori img hs hi
  | and dst src => exact rowsImplement_and img s dst src
  | or dst src => exact rowsImplement_or img s dst src
  | add dst src => exact rowsImplement_add img s dst src
  | addi r imm => exact rowsImplement_addi img hs hi
  | tst r => exact rowsImplement_tst img s r
  | ldf r => exact rowsImplement_ldf img s r (State.atFetch_iff.1 hs).1
  | stf r => exact rowsImplement_stf img s r (hstf r hi)
  | push r => exact rowsImplement_push img s r
  | pop r => exact rowsImplement_pop img s r hwf
  | jmp | jz | jnz | jc | jnc | js | jbe | jae => exact rowsImplement_of_jump img hs hi rfl rfl rfl
  | bmw r => exact rowsImplement_bmw img s r
  | bmx r xsel mask => exact rowsImplement_bmx img hs hwf hi

/-- What stays in the normal regime: every instruction but an `STF` of a value with bit 3 = 0. -/
theorem flagI_of_exec {t : State} (hstf : ∀ r : Reg, s.fetchInstr = .stf r → flagI (busFlags (s.reg r)) = true)
    (ht : exec s.fetchInstr s = .next t) : flagI t.flags = true := by
  cases hi : s.fetchInstr.isStf with
  | false => exact (State.atFetch_iff.1 (slotInvariant_atFetch.exec _ hi hs t ht)).1
  | true =>
    cases h : s.fetchInstr with
    | stf r =>
      rw [h, exec_stf, if_pos (hstf r h)] at ht
      cases ht
      exact hstf r h
    | _ => simp [h, Instr.isStf] at hi

/-- The slot of an instruction that accesses no port and stays in the normal regime completes in the state that its
meaning gives, in the cycles that `30_encoding.md` R71 gives. -/
theorem slotEnd_complete (hwf : s.mem.wf = true) (hport : accessesPort s.fetchInstr = false)
    (hstf : ∀ r : Reg, s.fetchInstr = .stf r → flagI (busFlags (s.reg r)) = true) :
    ∃ t : State, exec s.fetchInstr s = .next t ∧ slotEnd img s = .complete t s.fetchInstr.steps := by
  cases hidles : idles s.fetchInstr with
  | true =>
    refine ⟨_, ?_, slotEnd_of_idles img hs hidles⟩
    cases hi : s.fetchInstr with
    | nop | unmapped0E | unmappedEC | unmappedF0 => rfl
    | _ => simp [hi, idles] at hidles
  | false =>
    have ht := rowsImplement_fetchInstr img hs hwf hidles hport hstf
    have hend := endsInRst_microprogram hidles hport s.flags
    exact ⟨_, ht, slotEnd_of_endsInRst img hs hend rfl (flagI_of_exec hs hstf ht)⟩

end

/-! ## The outcome of a slot does not depend on fuel left over -/

/-- The outcome of a slot: the state in which it completed, or its fault. -/
def SlotEnd.outcome : SlotEnd → Result
  | .complete s _ => .next s
  | .fault f => raiseFault f
  | .unfinished s => .next s

theorem runSlot_eq_outcome (img : BootImage) (s : State) : runSlot img s = (slotEnd img s).outcome := by
  rw [runSlot]
  cases slotEnd img s <;> rfl

theorem outcome_slotLoop_eq (img : BootImage) (fuel : Nat) :
    ∀ (fuel' done done' : Nat) (s : State), 16 ≤ s.ustep.toNat + fuel → 16 ≤ s.ustep.toNat + fuel' →
      (slotLoop img fuel done s).outcome = (slotLoop img fuel' done' s).outcome := by
  induction fuel with
  | zero =>
    intro fuel' done done' s hfuel
    have := s.ustep.isLt
    omega
  | succ fuel ih =>
    intro fuel' done done' s hfuel hfuel'
    match fuel' with
    | 0 =>
      have := s.ustep.isLt
      omega
    | fuel' + 1 =>
      rw [slotLoop, slotLoop]
      split
      · rfl
      · rfl
      next t hcycle =>
        have hustep := ustep_of_not_complete hcycle
        exact ih fuel' _ _ t (by omega) (by omega)

/-! ## An `STF` that leaves the normal regime (`70_reset_and_hazards.md` R245) -/

section
variable {s : State} (hs : s.atFetch = true)
include hs

/-- After the row that loads the flags the slot of an `STF` goes on, by the table that they select, from the state in
which the meaning of `STF` continues it. -/
theorem runSlot_stf (r : Reg) (h : s.fetchInstr = .stf r) (hi : ¬flagI (busFlags (s.reg r)) = true) :
    runSlot Config.bootImage s = exec (.stf r) s := by
  have hrows : (s.fetched (.stf r)).rows = stfOps r := rows_of_fetchInstr h
  have hnormal : flagI (s.fetched (.stf r)).flags = true := (State.atFetch_iff.1 hs).1
  have hselect := slotLoop_atRow Config.bootImage 14 1 (n := 0) hnormal (m := row .const [] (toReg r)) (hrows ▸ rfl)
    (by decide) rfl
  have hload := slotLoop_atRow Config.bootImage 13 2 (n := 1) (s := (s.fetched (.stf r)).onSlot (regSlot r)) hnormal
    (m := row .mem [.flags] (toAlu .passl)) (congrArg (fun rows => rows.getD 1 idleOp) hrows) (by decide) rfl
  rw [toReg_eq, runRow_toSlot, load_nil] at hselect
  rw [runRow_toAlu, load_flags, busValue_mem_onSlot] at hload
  rw [runSlot_eq_outcome, slotEnd_of_atFetch _ hs, h, hselect, hload, exec_stf, if_neg hi, runSlot_eq_outcome, slotEnd]
  exact outcome_slotLoop_eq _ 13 16 3 0 _ (le_refl (3 + 13)) (Nat.le_add_left 16 3)

end

end Sys2Proof.Machine

/-! SUPPORT. The slots of `OUT`, `IN` and `OUTI` (`47_io_uart.md` R196 to R203). -/

namespace Sys2Proof.Machine

/-- The state with a port's one-hot code in `BSEL` (`47_io_uart.md` R196). -/
def State.onPort (s : State) (q : Port) : State := { s with bsel := portCode q }

theorem portOfCode_portCode (q : Port) : portOfCode (portCode q) = some q := by cases q <;> decide

theorem toPort_eq (q : Port) : toPort q = .latch (portCode q) := by cases q <;> rfl

theorem runRow_toPort (img : BootImage) (s : State) (source : BusSource) (loads : List Load) (q : Port) :
    s.runRow img (row source loads (toPort q)) = (s.load (s.busValue img source) loads).onPort q := by
  rw [toPort_eq]
  rfl

/-! ## The cycle that accesses a port (`41_cycle.md` R114, R115) -/

theorem wordAux_word (m : MicroOp) (code : Nibble) :
    wordAux m.word code = (!m.select.latches && m.select.field == code) := by
  rw [wordAux, wordLatches_word, wordField_word]

theorem loaded_word (s : State) (m : MicroOp) (bus : Byte) :
    s.loaded m.word bus = { s.afterRow m bus with ustep := s.ustep } := by
  have hir : wordAux m.word 1 = decide (m.select = .ir) := by rw [wordAux_word]; cases m.select <;> rfl
  simp only [State.loaded, State.loadRegisters, State.loadAddress, State.afterRow, hir, word_loadsMem, word_loadsTemp,
    word_loadsFlags, word_loadsAl, word_loadsAh, wordLatches_word, wordField_word, wordIncs_word]
  by_cases hal : Load.al ∈ m.loads <;> cases m.inc <;> simp [hal]

section
variable (img : BootImage) {s : State}

/-- The state after a cycle that goes on with the slot. -/
def State.ticked (s : State) : State := { s with ustep := s.ustep + 1 }

/-- The row that writes the port that `BSEL` selects. -/
theorem cycle_portWrite (hrow : ucodeRow s.flags s.ustep s.ir = row .temp [] .io) :
    cycle img s =
      match s.ioWrite s.bsel s.t with
      | .error f => .error f
      | .ok u => .ok (u.ticked, u.ustep == 15) := by
  have hloads : (s.loadRegisters (row .temp [] .io).word s.t).loadAddress (row .temp [] .io).word s.t = s :=
    loaded_word s _ _
  have hdrive : s.drive img (row .temp [] .io).source = .ok (s.t, s) := rfl
  simp only [cycle, ucode, hrow, cycleWord, wordSource_word, wordReserved_word, hdrive, hloads, wordAux_word,
    advance_eq]
  rfl

/-- The row that reads the port that `BSEL` selects, on its way to a slot. -/
theorem cycle_portRead {x : Slot} (hrow : ucodeRow s.flags s.ustep s.ir = row .io [.temp] (toSlot x)) :
    cycle img s =
      match s.ioRead with
      | .error f => .error f
      | .ok (v, u) => .ok (((u.setT v).onSlot x).ticked, u.ustep == 15) := by
  have hloads (v : Byte) (u : State) :
      (u.loadRegisters (row .io [.temp] (toSlot x)).word v).loadAddress (row .io [.temp] (toSlot x)).word v =
        (u.setT v).onSlot x := loaded_word u _ _
  have hdrive : s.drive img (row .io [.temp] (toSlot x)).source = s.ioRead := rfl
  simp only [cycle, ucode, hrow, cycleWord, wordSource_word, wordReserved_word, hdrive, hloads, wordAux_word,
    advance_eq]
  rfl

end

theorem ticked_atRow (s : State) (n : Nat) : (s.atRow n).ticked = s.atRow (n + 1) := by
  have hstep : BitVec.ofNat 4 (n + 1) + 1 = BitVec.ofNat 4 (n + 1 + 1) := (BitVec.ofNat_add ..).symm
  simp only [State.ticked, State.atRow, hstep]

/-! ## A port access within a slot -/

section
variable (s : State) (q : Port) (n : Nat)

theorem txShift_atRow (line : Bool) :
    ((s.onPort q).atRow n).txShift line = ((s.txShift line).onPort q).atRow n := by
  simp only [State.txShift, apply_ite State.onPort, apply_ite State.atRow, ite_apply]
  rfl

theorem port3Write_atRow (v : Byte) :
    ((s.onPort q).atRow n).port3Write v = ((s.port3Write v).onPort q).atRow n := by
  rw [State.port3Write, txShift_atRow]
  rfl

theorem port3Polled_atRow : ((s.onPort q).atRow n).port3Polled = (s.port3Polled.onPort q).atRow n := by
  simp only [State.port3Polled, apply_ite State.onPort, apply_ite State.atRow, ite_apply]
  rfl

theorem ioWrite_missing (v : Byte) (hq : q ≠ .p3) : s.ioWrite (portCode q) v = .error .unsupportedPort := by
  rw [State.ioWrite, portOfCode_portCode]
  cases q with
  | p3 => exact absurd rfl hq
  | p0 | p1 | p2 => rfl

theorem ioRead_missing (hq : q ≠ .p3) (hb : s.bsel = portCode q) : s.ioRead = .error .unsupportedPort := by
  rw [State.ioRead, hb, portOfCode_portCode]
  cases q with
  | p3 => exact absurd rfl hq
  | p0 | p1 | p2 => rfl

theorem ioWrite_port3 (v : Byte) :
    ((s.onPort .p3).atRow n).ioWrite (portCode .p3) v = .ok (((s.port3Write v).onPort .p3).atRow n) := by
  rw [State.ioWrite, portOfCode_portCode, ← port3Write_atRow]
  rfl

theorem ioRead_port3 :
    ((s.onPort .p3).atRow n).ioRead = .ok (s.port3Value, (s.port3Polled.onPort .p3).atRow n) := by
  rw [State.ioRead, ← port3Polled_atRow]
  rfl

/-- A port access keeps the regime and the rows of the slot. -/
theorem flags_port3Write (v : Byte) : (s.port3Write v).flags = s.flags :=
  (congrArg State.flags (port3Write_frame s v) :)

theorem ir_port3Write (v : Byte) : (s.port3Write v).ir = s.ir := (congrArg State.ir (port3Write_frame s v) :)

theorem flags_port3Polled : s.port3Polled.flags = s.flags := (congrArg State.flags (port3Polled_frame s) :)

theorem ir_port3Polled : s.port3Polled.ir = s.ir := (congrArg State.ir (port3Polled_frame s) :)

theorem rows_port3Write (v : Byte) : (s.port3Write v).rows = s.rows := by
  rw [State.rows, ir_port3Write, flags_port3Write]
  rfl

theorem rows_port3Polled : s.port3Polled.rows = s.rows := by
  rw [State.rows, ir_port3Polled, flags_port3Polled]
  rfl

end

section
variable (img : BootImage) (fuel done : Nat) {s : State} {n : Nat} (hi : flagI s.flags = true)
include hi

section
variable (hrow : s.rows.getD n idleOp = row .temp [] .io) (hn : n < 14)
include hrow hn

theorem slotLoop_write_missing {q : Port} (hq : q ≠ .p3) :
    slotLoop img (fuel + 1) done ((s.onPort q).atRow n) = .fault .unsupportedPort := by
  have hcycle := cycle_portWrite img ((ucodeRow_atRow (s := s.onPort q) hi (by omega)).trans hrow)
  rw [show ((s.onPort q).atRow n).bsel = portCode q from rfl, ioWrite_missing _ _ _ hq] at hcycle
  rw [slotLoop, hcycle]

theorem slotLoop_write_port3 :
    slotLoop img (fuel + 1) done ((s.onPort .p3).atRow n) =
      slotLoop img fuel (done + 1) (((s.port3Write s.t).onPort .p3).atRow (n + 1)) := by
  have hcycle := cycle_portWrite img ((ucodeRow_atRow (s := s.onPort .p3) hi (by omega)).trans hrow)
  rw [show ((s.onPort .p3).atRow n).bsel = portCode .p3 from rfl, ioWrite_port3] at hcycle
  dsimp only at hcycle
  rw [ticked_atRow, beq_false_of_ne (atRow_ne_wrap _ hn)] at hcycle
  rw [slotLoop, hcycle]
  rfl

end

section
variable {x : Slot} (hrow : s.rows.getD n idleOp = row .io [.temp] (toSlot x)) (hn : n < 14)
include hrow hn

theorem slotLoop_read_missing {q : Port} (hq : q ≠ .p3) :
    slotLoop img (fuel + 1) done ((s.onPort q).atRow n) = .fault .unsupportedPort := by
  have hcycle := cycle_portRead img ((ucodeRow_atRow (s := s.onPort q) hi (by omega)).trans hrow)
  rw [ioRead_missing _ q hq rfl] at hcycle
  rw [slotLoop, hcycle]

theorem slotLoop_read_port3 :
    slotLoop img (fuel + 1) done ((s.onPort .p3).atRow n) =
      slotLoop img fuel (done + 1) (((s.port3Polled.setT s.port3Value).onSlot x).atRow (n + 1)) := by
  have hcycle := cycle_portRead img ((ucodeRow_atRow (s := s.onPort .p3) hi (by omega)).trans hrow)
  rw [ioRead_port3] at hcycle
  dsimp only at hcycle
  rw [show (((s.port3Polled.onPort .p3).atRow n).setT s.port3Value).onSlot x =
    ((s.port3Polled.setT s.port3Value).onSlot x).atRow n from rfl, ticked_atRow,
    beq_false_of_ne (atRow_ne_wrap _ hn)] at hcycle
  rw [slotLoop, hcycle]

end

end

/-! ## The slots of the port instructions -/

theorem sendPort_missing (s : State) {q : Port} (hq : q ≠ .p3) : s.sendPort q = .fault .unsupportedPort := by
  cases q with
  | p3 => exact absurd rfl hq
  | p0 | p1 | p2 => rfl

theorem execInp_missing (s : State) (r : Reg) {q : Port} (hq : q ≠ .p3) :
    exec (.inp r q) s = .fault .unsupportedPort := by
  cases q with
  | p3 => exact absurd rfl hq
  | p0 | p1 | p2 => rfl

/-- The rows after a port access. -/
theorem slotLoop_of_tail (img : BootImage) (fuel done : Nat) {u : State} {n : Nat} {tail : List MicroOp}
    (hi : flagI u.flags = true) (hrows : u.rows.drop n = tail) (hlen : n + tail.length ≤ 15)
    (hend : endsInRst tail = true) (hflags : tail.all (fun m => !m.loadsFlags) = true) :
    slotLoop img (fuel + tail.length) done (u.atRow n) = .complete (u.runRows img tail) (done + tail.length) := by
  have hall : ∀ m ∈ tail, m.loadsFlags = false := by simpa using hflags
  exact slotLoop_rows img fuel tail n done u hi hrows hlen hend (fun _ => settles_of_forall hall _)
    (by rwa [flags_runRows img u hall])

/-- The last rows of a write of port 3, from the state with the byte in `T` (`47_io_uart.md` R201, R203). -/
theorem slotLoop_writePortTail (img : BootImage) (fuel done : Nat) {u : State} {n : Nat} (hi : flagI u.flags = true)
    (hrows : u.rows.drop n = writePortTail) (hn : n ≤ 12) :
    slotLoop img (fuel + 3) done ((u.onPort .p3).atRow n) = .complete (u.port3Write u.t).endSlot (done + 3) := by
  have hrow : u.rows.getD n idleOp = row .temp [] .io := by
    rw [List.getD_eq_getElem?_getD, ← List.head?_drop, hrows]
    rfl
  have hrest : ((u.port3Write u.t).onPort .p3).rows.drop (n + 1) = writePortTail.tail := by
    rw [← hrows, List.tail_drop]
    exact congrArg (List.drop (n + 1)) (rows_port3Write u u.t)
  have hi' : flagI ((u.port3Write u.t).onPort .p3).flags = true := (flags_port3Write u u.t).symm ▸ hi
  rw [slotLoop_write_port3 img (fuel + 2) done hi hrow (by omega)]
  have hlen : n + 1 + writePortTail.tail.length ≤ 15 := Nat.add_le_add_right hn 3
  refine (slotLoop_of_tail img fuel (done + 1) hi' hrest hlen rfl rfl).trans ?_
  simp [writePortTail]
  rfl

section
variable (img : BootImage) {s : State} (hs : s.atFetch = true)
include hs

/-- The slot of an `OUT` up to the cycle that writes the port. -/
theorem slotEnd_out (q : Port) (r : Reg) (h : s.fetchInstr = .out q r) :
    slotEnd img s = slotLoop img 13 3 ((((s.fetched (.out q r)).setT (s.reg r)).onPort q).atRow 2) := by
  have hrows : (s.fetched (.out q r)).rows = _ := rows_of_fetchInstr h
  have hnormal : flagI (s.fetched (.out q r)).flags = true := (State.atFetch_iff.1 hs).1
  have hselect := slotLoop_atRow img 14 1 (n := 0) hnormal (m := row .const [] (toReg r)) (hrows ▸ rfl)
    (by decide) rfl
  have hread := slotLoop_atRow img 13 2 (n := 1) (s := (s.fetched (.out q r)).onSlot (regSlot r)) hnormal
    (m := row .mem [.temp] (toPort q)) (congrArg (fun rows => rows.getD 1 idleOp) hrows) (by decide)
    (by cases q <;> rfl)
  rw [toReg_eq, runRow_toSlot, load_nil] at hselect
  rw [runRow_toPort, load_temp, busValue_mem_onSlot] at hread
  rw [slotEnd_of_atFetch img hs, h, hselect, hread]
  rfl

/-- The slot of an `OUTI` up to the cycle that writes the port. -/
theorem slotEnd_outi (q : Port) (imm : Byte) (h : s.fetchInstr = .outi q imm) :
    slotEnd img s = slotLoop img 14 2 ((((s.fetched (.outi q imm)).takeOperand imm).onPort q).atRow 1) := by
  have hrows : (s.fetched (.outi q imm)).rows = _ := rows_of_fetchInstr h
  have hread := slotLoop_atRow img 14 1 (n := 0) (s := s.fetched (.outi q imm)) (State.atFetch_iff.1 hs).1
    (m := rowInc .mem [.temp] (toPort q)) (hrows ▸ rfl) (by decide) (by cases q <;> rfl)
  rw [runRow_rowInc _ _ _ _ (by decide) (by decide), runRow_toPort, load_temp,
    busValue_mem_fetched img hs h rfl] at hread
  rw [slotEnd_of_atFetch img hs, h, hread]
  rfl

/-- The slot of an `IN` up to the cycle that reads the port. -/
theorem slotEnd_inp (r : Reg) (q : Port) (h : s.fetchInstr = .inp r q) :
    slotEnd img s = slotLoop img 14 2 (((s.fetched (.inp r q)).onPort q).atRow 1) := by
  have hrows : (s.fetched (.inp r q)).rows = _ := rows_of_fetchInstr h
  have hselect := slotLoop_atRow img 14 1 (n := 0) (s := s.fetched (.inp r q)) (State.atFetch_iff.1 hs).1
    (m := row .const [] (toPort q)) (hrows ▸ rfl) (by decide) (by cases q <;> rfl)
  rw [runRow_toPort, load_nil] at hselect
  rw [slotEnd_of_atFetch img hs, h, hselect]

theorem slotEnd_out_missing {q : Port} {r : Reg} (h : s.fetchInstr = .out q r) (hq : q ≠ .p3) :
    slotEnd img s = .fault .unsupportedPort := by
  rw [slotEnd_out img hs q r h]
  exact slotLoop_write_missing img 12 3 (s := (s.fetched (.out q r)).setT (s.reg r)) (State.atFetch_iff.1 hs).1
    (congrArg (fun rows => rows.getD 2 idleOp) (rows_of_fetchInstr h)) (by decide) hq

theorem slotEnd_outi_missing {q : Port} {imm : Byte} (h : s.fetchInstr = .outi q imm) (hq : q ≠ .p3) :
    slotEnd img s = .fault .unsupportedPort := by
  rw [slotEnd_outi img hs q imm h]
  exact slotLoop_write_missing img 13 2 (s := (s.fetched (.outi q imm)).takeOperand imm) (State.atFetch_iff.1 hs).1
    (congrArg (fun rows => rows.getD 1 idleOp) (rows_of_fetchInstr h)) (by decide) hq

theorem slotEnd_inp_missing {q : Port} {r : Reg} (h : s.fetchInstr = .inp r q) (hq : q ≠ .p3) :
    slotEnd img s = .fault .unsupportedPort := by
  rw [slotEnd_inp img hs r q h]
  exact slotLoop_read_missing img 13 2 (s := s.fetched (.inp r q)) (x := regSlot r) (State.atFetch_iff.1 hs).1
    (congrArg (fun rows => rows.getD 1 idleOp) (rows_of_fetchInstr h)) (by decide) hq

theorem slotEnd_out_port3 {r : Reg} (h : s.fetchInstr = .out .p3 r) :
    slotEnd img s = .complete (((s.fetched (.out .p3 r)).setT (s.reg r)).port3Write (s.reg r)).endSlot 6 := by
  rw [slotEnd_out img hs .p3 r h]
  exact slotLoop_writePortTail img 10 3 (u := (s.fetched (.out .p3 r)).setT (s.reg r)) (State.atFetch_iff.1 hs).1
    (congrArg (List.drop 2) (rows_of_fetchInstr h)) (by decide)

theorem slotEnd_outi_port3 {imm : Byte} (h : s.fetchInstr = .outi .p3 imm) :
    slotEnd img s = .complete (((s.fetched (.outi .p3 imm)).takeOperand imm).port3Write imm).endSlot 5 := by
  rw [slotEnd_outi img hs .p3 imm h]
  exact slotLoop_writePortTail img 11 2 (u := (s.fetched (.outi .p3 imm)).takeOperand imm) (State.atFetch_iff.1 hs).1
    (congrArg (List.drop 1) (rows_of_fetchInstr h)) (by decide)

theorem slotEnd_inp_port3 {r : Reg} (h : s.fetchInstr = .inp r .p3) :
    slotEnd img s = .complete
      ((s.fetched (.inp r .p3)).port3Polled.result (regSlot r) (s.fetched (.inp r .p3)).port3Value).endSlot 5 := by
  rw [slotEnd_inp img hs r .p3 h,
    slotLoop_read_port3 img 13 2 (s := s.fetched (.inp r .p3)) (x := regSlot r) (n := 1) (State.atFetch_iff.1 hs).1
      (congrArg (fun rows => rows.getD 1 idleOp) (rows_of_fetchInstr h)) (by decide)]
  generalize hu :
    ((s.fetched (.inp r .p3)).port3Polled.setT (s.fetched (.inp r .p3)).port3Value).onSlot (regSlot r) = u
  have hi : flagI u.flags = true := by
    rw [← hu]
    exact (flags_port3Polled _).symm ▸ (State.atFetch_iff.1 hs).1
  have hrows : u.rows = microprogram (.inp r .p3) s.flags := by
    rw [← hu]
    exact (rows_port3Polled _).trans (rows_of_fetchInstr h)
  have hlen : 2 + ((microprogram (.inp r .p3) s.flags).drop 2).length ≤ 15 := by simp [microprogram]
  refine (slotLoop_of_tail img 11 3 hi (congrArg (List.drop 2) hrows) hlen rfl rfl).trans ?_
  simp [microprogram, State.result, ← hu]

/-- An instruction on a port that does not exist ends at it, in its meaning and in its slot (`47_io_uart.md` R197). -/
theorem missing_port_faults (h : s.fetchInstr.usesMissingPort = true) :
    exec s.fetchInstr s = .fault .unsupportedPort ∧ slotEnd img s = .fault .unsupportedPort := by
  cases hi : s.fetchInstr with
  | out q r =>
    have hq : q ≠ .p3 := by simpa [hi, Instr.usesMissingPort] using h
    exact ⟨sendPort_missing _ hq, slotEnd_out_missing img hs hi hq⟩
  | inp r q =>
    have hq : q ≠ .p3 := by simpa [hi, Instr.usesMissingPort] using h
    exact ⟨execInp_missing s r hq, slotEnd_inp_missing img hs hi hq⟩
  | outi q imm =>
    have hq : q ≠ .p3 := by simpa [hi, Instr.usesMissingPort] using h
    exact ⟨sendPort_missing _ hq, slotEnd_outi_missing img hs hi hq⟩
  | _ => rw [hi] at h; cases h

/-- The slot of an access to port 3 completes in the state that the instruction's meaning gives. -/
theorem slotEnd_port3 (hport : accessesPort s.fetchInstr = true) (h : s.fetchInstr.usesMissingPort = false) :
    ∃ t : State, exec s.fetchInstr s = .next t ∧ slotEnd img s = .complete t s.fetchInstr.steps := by
  cases hi : s.fetchInstr with
  | out q r =>
    obtain rfl : q = .p3 := by simpa [hi, Instr.usesMissingPort] using h
    exact ⟨_, rfl, slotEnd_out_port3 img hs hi⟩
  | inp r q =>
    obtain rfl : q = .p3 := by simpa [hi, Instr.usesMissingPort] using h
    exact ⟨_, rfl, slotEnd_inp_port3 img hs hi⟩
  | outi q imm =>
    obtain rfl : q = .p3 := by simpa [hi, Instr.usesMissingPort] using h
    exact ⟨_, rfl, slotEnd_outi_port3 img hs hi⟩
  | _ => rw [hi] at hport; cases hport

end

/-! ## Every slot of the normal regime -/

/-- Settles O26: the slot faults at a port that does not exist, completes by its rows, or is that of an `STF` that goes
on under the power-on tables. -/
theorem microprogramsImplementTheInstructions : Obligations.MicroprogramsImplementTheInstructions := by
  intro s hwf hs
  have of_complete (h : ∃ t : State, exec s.fetchInstr s = .next t ∧
      slotEnd Config.bootImage s = .complete t s.fetchInstr.steps) :
      runSlot Config.bootImage s = exec s.fetchInstr s := by
    obtain ⟨t, hexec, hslot⟩ := h
    rw [runSlot, hslot, hexec]
  cases hport : accessesPort s.fetchInstr with
  | true =>
    cases hmissing : s.fetchInstr.usesMissingPort with
    | true =>
      obtain ⟨hexec, hslot⟩ := missing_port_faults Config.bootImage hs hmissing
      rw [runSlot, hslot, hexec]
      rfl
    | false => exact of_complete (slotEnd_port3 Config.bootImage hs hport hmissing)
  | false =>
    by_cases hstf : ∀ r : Reg, s.fetchInstr = .stf r → flagI (busFlags (s.reg r)) = true
    · exact of_complete (slotEnd_complete Config.bootImage hs hwf hport hstf)
    · push Not at hstf
      obtain ⟨r, hi, hdrops⟩ := hstf
      rw [runSlot_stf hs r hi hdrops, hi]

end Sys2Proof.Machine

/-! SUPPORT. The end of a run (`41_cycle.md` R120): a run in cycles is the cycles with the host up to the first one that
leaves a completed `BRK`. -/

namespace Sys2Proof.Machine

variable {img : BootImage} {host : HostBehaviour} {k : Nat} {s u : State}

/-! ## Cycles that leave no completed `BRK` -/

theorem breakFree_self : BreakFree img host s k k := by
  intro m _ hpos hle
  omega

/-- The first of `m + 1` cycles, and the `m` after it. -/
theorem breakFree_succ_iff (h : hostedCycle img host k s = .next u) (m : Nat) :
    BreakFree img host s k (m + 1 + k) ↔ u.atBreak = false ∧ BreakFree img host u (k + 1) (m + (k + 1)) := by
  rw [← Bool.not_eq_true, State.atBreak_iff]
  refine ⟨fun hfree => ⟨hfree 1 u Nat.one_pos (by omega) (runCyclesWithHost_next 0 h), fun j v hpos hle hv => ?_⟩,
    fun ⟨hu, hfree⟩ j v hpos hle hv => ?_⟩
  · exact hfree (j + 1) v (by omega) (by omega) ((runCyclesWithHost_next j h).trans hv)
  · match j with
    | 1 =>
      obtain rfl := Host.Outcome.next.inj ((runCyclesWithHost_next 0 h).symm.trans hv)
      exact hu
    | j + 2 => exact hfree (j + 1) v (by omega) (by omega) ((runCyclesWithHost_next (j + 1) h).symm.trans hv)

/-! ## A run in cycles -/

theorem runCyclesWithHost_fault {f : Fault} (n : Nat) (h : hostedCycle img host k s = .fault f) :
    runCyclesWithHost img host (n + 1) k s = .fault f := by simp [runCyclesWithHost, h]

theorem runCyclesWithHost_refused {r : Refusal} (n : Nat) (h : hostedCycle img host k s = .refused r) :
    runCyclesWithHost img host (n + 1) k s = .refused r := by simp [runCyclesWithHost, h]

theorem runProgram_break (fuel : Nat) (h : hostedCycle img host k s = .next u) (hb : u.atBreak = true) :
    runProgram img host (fuel + 1) k s = .ended u (k + 1) := runUntilBreak_break fuel h hb

theorem runProgram_next (fuel : Nat) (h : hostedCycle img host k s = .next u) (hb : u.atBreak = false) :
    runProgram img host (fuel + 1) k s = runProgram img host fuel (k + 1) u := runUntilBreak_next fuel h hb

theorem runProgram_fault {f : Fault} (fuel : Nat) (h : hostedCycle img host k s = .fault f) :
    runProgram img host (fuel + 1) k s = .fault f k := runUntilBreak_fault fuel h

theorem runProgram_refused {r : Refusal} (fuel : Nat) (h : hostedCycle img host k s = .refused r) :
    runProgram img host (fuel + 1) k s = .refused r k := runUntilBreak_refused fuel h

/-- A run ends after `m + 1` cycles if and only if the last of them is the first to leave a completed `BRK`. -/
theorem runProgram_eq_ended_iff (fuel : Nat) : ∀ (k : Nat) (s t : State) (n : Nat),
    runProgram img host fuel k s = .ended t n ↔
      ∃ m < fuel, n = m + 1 + k ∧ runCyclesWithHost img host (m + 1) k s = .next t ∧ t.atBreak = true ∧
        BreakFree img host s k (m + k) := by
  induction fuel with
  | zero => intro k s t n; simp [runProgram]
  | succ fuel ih =>
    intro k s t n
    cases h : hostedCycle img host k s with
    | fault f => simp [runProgram_fault _ h, runCyclesWithHost_fault _ h]
    | refused r => simp [runProgram_refused _ h, runCyclesWithHost_refused _ h]
    | next u =>
      simp only [Nat.exists_lt_succ_left, runCyclesWithHost_next _ h, breakFree_succ_iff h, Nat.zero_add,
        breakFree_self]
      cases hb : u.atBreak with
      | true =>
        have hu : u = t ∧ t.atBreak = true ↔ u = t := and_iff_left_of_imp fun e => e ▸ hb
        simp [runProgram_break _ h hb, hu, and_comm, eq_comm (a := n), Nat.add_comm k 1]
      | false =>
        have hu : ¬(u = t ∧ t.atBreak = true) := fun e => by simp [← e.1, hb] at e
        simp [runProgram_next _ h hb, ih, hu, ← Nat.add_assoc, Nat.add_right_comm _ k 1]

/-- A run ends in a fault of cycle `k + m` if and only if `m` cycles go before it and leave no completed `BRK`. -/
theorem runProgram_eq_fault_iff (fuel : Nat) : ∀ (k : Nat) (s : State) (f : Fault) (n : Nat),
    runProgram img host fuel k s = .fault f n ↔
      ∃ m < fuel, n = m + k ∧ (∃ u, runCyclesWithHost img host m k s = .next u) ∧
        runCyclesWithHost img host (m + 1) k s = .fault f ∧ BreakFree img host s k (m + k) := by
  induction fuel with
  | zero => intro k s f n; simp [runProgram]
  | succ fuel ih =>
    intro k s f n
    cases h : hostedCycle img host k s with
    | fault g =>
      simp only [Nat.exists_lt_succ_left]
      simp [runProgram_fault _ h, runCyclesWithHost_fault _ h, breakFree_self, and_comm, eq_comm]
    | refused r => simp [runProgram_refused _ h, runCyclesWithHost_refused _ h]
    | next u =>
      simp only [Nat.exists_lt_succ_left, runCyclesWithHost_next _ h, breakFree_succ_iff h]
      cases hb : u.atBreak with
      | true => simp [runProgram_break _ h hb]
      | false =>
        simp [runProgram_next _ h hb, ih, ← Nat.add_assoc, Nat.add_right_comm _ k 1]

/-- A run is still under way if and only if the fuel runs out before a completed `BRK` and before a fault. -/
theorem runProgram_eq_running_iff (fuel : Nat) : ∀ (k : Nat) (s t : State),
    runProgram img host fuel k s = .running t ↔
      runCyclesWithHost img host fuel k s = .next t ∧ BreakFree img host s k (fuel + k) := by
  induction fuel with
  | zero => intro k s t; simp [runProgram, breakFree_self]
  | succ fuel ih =>
    intro k s t
    cases h : hostedCycle img host k s with
    | fault f => simp [runProgram_fault _ h, runCyclesWithHost_fault _ h]
    | refused r => simp [runProgram_refused _ h, runCyclesWithHost_refused _ h]
    | next u =>
      rw [runCyclesWithHost_next _ h, breakFree_succ_iff h]
      cases hb : u.atBreak with
      | true => simp [runProgram_break _ h hb]
      | false => simp [runProgram_next _ h hb, ih]

/-! ## The slot of a `BRK` (`46_stack_and_control.md` R191) -/

/-- The second cycle of a `BRK` is the row that ends the slot. -/
theorem cycle_brk (img : BootImage) (hs : s.atFetch = true) (h : s.fetchInstr = .brk) :
    cycle img ((s.fetched .brk).atRow 0) = .ok ((s.fetched .brk).endPlain, true) := by
  have hrow : (s.fetched .brk).rows.getD 0 idleOp = rstOp := by
    rw [rows_of_fetchInstr h]
    rfl
  have hword := ucodeRow_atRow (s := s.fetched .brk) (State.atFetch_iff.1 hs).1 (by decide : 0 < 15)
  rw [cycle_row img _ (hword.trans hrow) nofun nofun, afterRow_atRow_rst img _ 0 rfl, runRow_rst]
  rfl

/-- A `BRK` at the pc ends a run in cycles after its two cycles. -/
theorem runProgram_brk (img : BootImage) (fuel k : Nat) (hs : s.atFetch = true) (h : s.fetchInstr = .brk) :
    runProgram img emptyHost (fuel + 2) k s = .ended (s.fetched .brk).endPlain (k + 2) := by
  have hfetch : hostedCycle img emptyHost k s = .next ((s.fetched .brk).atRow 0) := by
    rw [hostedCycle_empty, cycle_fetch img hs, h]
  have hend : hostedCycle img emptyHost (k + 1) ((s.fetched .brk).atRow 0) = .next (s.fetched .brk).endPlain := by
    rw [hostedCycle_empty, cycle_brk img hs h]
  rw [runProgram_next (fuel + 1) hfetch rfl, runProgram_break fuel hend rfl]

/-- A `BRK` at the pc ends a run in steps after its step. -/
theorem runSteps_brk (fuel k : Nat) (hs : s.atFetch = true) (h : s.fetchInstr = .brk) :
    runSteps (fuel + 1) k s = .ended (s.fetched .brk).endPlain (k + 1) :=
  runUntilBreak_break fuel (by rw [step_of_atFetch hs, h]; rfl) rfl

/-- Settles O12: the laws of a run count the cycles from its start, the statement from cycle 0. -/
theorem runsEndAtBreak : Obligations.RunsEndAtBreak := by
  refine ⟨fun img host fuel k s => ⟨fun t n => ?_, fun f n => ?_, fun t => ?_⟩, fun img fuel k s hs h =>
    ⟨(s.fetched .brk).endPlain, rfl, pc_fetched s .brk, runProgram_brk img fuel k hs h, runSteps_brk fuel k hs h⟩⟩
  · rw [runProgram_eq_ended_iff]
    constructor
    · rintro ⟨m, hm, rfl, hrun, hb, hfree⟩
      obtain ⟨hu, hir⟩ := State.atBreak_iff.1 hb
      rw [Nat.add_sub_cancel, Nat.add_right_comm, Nat.add_sub_cancel]
      exact ⟨by omega, by omega, hrun, hu, hir, hfree⟩
    · rintro ⟨hk, hn, hrun, hu, hir, hfree⟩
      obtain ⟨m, rfl⟩ := Nat.exists_eq_add_of_lt hk
      rw [show k + m + 1 - k = m + 1 by omega] at hrun
      rw [Nat.add_sub_cancel, Nat.add_comm] at hfree
      exact ⟨m, by omega, by omega, hrun, State.atBreak_iff.2 ⟨hu, hir⟩, hfree⟩
  · rw [runProgram_eq_fault_iff]
    constructor
    · rintro ⟨m, hm, rfl, hbefore, hrun, hfree⟩
      rw [Nat.add_sub_cancel]
      exact ⟨by omega, by omega, hbefore, hrun, hfree⟩
    · rintro ⟨hk, hn, hbefore, hrun, hfree⟩
      exact ⟨n - k, by omega, by omega, hbefore, hrun, (Nat.sub_add_cancel hk).symm ▸ hfree⟩
  · rw [runProgram_eq_running_iff, Nat.add_comm fuel]

end Sys2Proof.Machine

/-! SUPPORT. No-ops, immediate loads and moves: their slots through the clock cycles, and what each of them changes and
leaves (`42_move_and_load.md` R130 to R134, `46_stack_and_control.md` R191, R192). -/

namespace Sys2Proof.Machine

/-! ## Words of the spec (`30_encoding.md` R71) -/

theorem decode_of_encode_eq {i : Instr} {bytes : List Byte} (hbytes : encode i = bytes) (hwf : i.wellFormed = true) :
    decode bytes = .ok (i, []) := by
  rw [← hbytes, ← decodeEncodeRoundTrip i [] hwf, List.append_nil]

/-- Settles O4: each word is the encoding of its instruction. -/
theorem specWordsDecode : Obligations.SpecWordsDecode := by
  unfold Obligations.SpecWordsDecode
  and_intros <;> exact decode_of_encode_eq rfl rfl

/-! ## Slots through the clock cycles (`41_cycle.md` R119) -/

/-- The instructions that access no port and cannot clear `I`. -/
def isPlain (i : Instr) : Bool := !accessesPort i && !i.isStf

/-- The slot of such an instruction completes as its meaning says. -/
theorem slotEnd_complete_of_isPlain (img : BootImage) {s : State} (hwf : s.mem.wf = true) (hs : s.atFetch = true)
    (hplain : isPlain s.fetchInstr = true) :
    ∃ t : State, exec s.fetchInstr s = .next t ∧ slotEnd img s = .complete t s.fetchInstr.steps := by
  rw [isPlain, Bool.and_eq_true, Bool.not_eq_true', Bool.not_eq_true'] at hplain
  obtain ⟨hport, hstf⟩ := hplain
  refine slotEnd_complete img hs hwf hport fun r hr => ?_
  rw [hr] at hstf
  cases hstf

theorem isPlain_of_mem {i : Instr} {is : List Instr} (hmem : i ∈ is) (hall : is.all isPlain = true) :
    isPlain i = true :=
  List.all_eq_true.1 hall i hmem

/-- Settles O22: every instruction of the list is plain, whatever its operands. -/
theorem cyclesOfMovesAndJumps : Obligations.CyclesOfMovesAndJumps := by
  intro img s r q p x y hwf hs hmem
  exact slotEnd_complete_of_isPlain img hwf hs (isPlain_of_mem hmem rfl)

/-! ## What stays as before -/

theorem uartKept_refl (s : State) : UartKept s s := ⟨⟨rfl, rfl, rfl, rfl, rfl⟩, rfl, rfl, rfl, rfl⟩

theorem memoryKept_of_mem_eq {s t : State} (h : t.mem = s.mem) (written : List Addr) : MemoryKept s t written :=
  fun a _ => readMem_of_mem_eq h a

theorem memoryKept_result (s : State) (x : Slot) (v : Byte) : MemoryKept s (s.result x v) [slotAddr x] :=
  memoryKept_writeMem (s.setT v) (slotAddr x) v

theorem MemoryKept.trans {s u t : State} {written written' : List Addr} (h : MemoryKept s u written)
    (k : MemoryKept u t written') : MemoryKept s t (written ++ written') := fun a ha => by
  rw [List.mem_append, not_or] at ha
  rw [k a ha.2, h a ha.1]

theorem MemoryKept.incPc {s t : State} {written : List Addr} (h : MemoryKept s t written) :
    MemoryKept s t.incPc written := fun a ha => (readMem_incPc t a).trans (h a ha)

theorem MemoryKept.endSlot {s t : State} {written : List Addr} (h : MemoryKept s t written) :
    MemoryKept s t.endSlot written := fun a ha => (readMem_endSlot t a).trans (h a ha)

theorem slot_result {s : State} (h : s.mem.wf = true) (x y : Slot) (v : Byte) :
    (s.result x v).slot y = if y = x then v else s.slot y :=
  slot_setSlot (s := s.setT v) h x y v

theorem pc_incPc_fetched (s : State) (i : Instr) : (s.fetched i).incPc.pc = s.pc + 2 := by
  rw [pc_incPc, pc_fetched, BitVec.add_assoc]
  rfl

/-! ## No-ops (`42_move_and_load.md` R130, `46_stack_and_control.md` R191, R192, `30_encoding.md` R72) -/

/-- From `s` to `t` the slot of `i` takes `IR` and moves the pc by `n`; all else is as before. -/
def OnlyAdvances (i : Instr) (n : Addr) (s t : State) : Prop :=
  t.ir = i.opcode ∧ t.pc = s.pc + n ∧ t.ustep = 0 ∧ t.bsel = s.bsel ∧ t.flags = s.flags ∧ t.t = s.t ∧
    MemoryKept s t [] ∧ UartKept s t

section
variable (s : State)

theorem onlyAdvances_fetched (i : Instr) : OnlyAdvances i 1 s (s.fetched i).endPlain :=
  ⟨rfl, pc_fetched s i, rfl, rfl, rfl, rfl, memoryKept_of_mem_eq rfl _, uartKept_refl s⟩

theorem onlyAdvances_skp : OnlyAdvances .skp 2 s (s.fetched .skp).incPc.endPlain :=
  ⟨rfl, pc_incPc_fetched s .skp, rfl, rfl, rfl, rfl, memoryKept_of_mem_eq rfl _, uartKept_refl s⟩

end

/-- Settles O27: each is its fetch, `SKP` with one more increment. -/
theorem noOpsAdvanceThePc : Obligations.NoOpsAdvanceThePc := by
  intro s op i n hmem
  simp only [List.mem_cons, Prod.mk.injEq, List.not_mem_nil, or_false] at hmem
  obtain ⟨rfl, rfl⟩ | ⟨rfl, rfl⟩ | ⟨rfl, rfl⟩ | ⟨rfl, rfl⟩ | ⟨rfl, rfl⟩ | ⟨rfl, rfl⟩ := hmem
  case inr.inr.inl => exact ⟨_, rfl, onlyAdvances_skp s⟩
  all_goals exact ⟨_, rfl, onlyAdvances_fetched s _⟩

/-! ## Immediate loads and moves (`42_move_and_load.md` R131, R133, R134) -/

section
variable (s : State) (r q : Reg) (imm : Byte)

theorem exec_ldi :
    exec (.ldi r imm) s = .next ((s.fetched (.ldi r imm)).incPc.result (regSlot r) imm).endSlot := rfl

theorem exec_mov : exec (.mov r q) s = .next ((s.fetched (.mov r q)).result (regSlot r) (s.reg q)).endSlot := rfl

theorem exec_ldt : exec (.ldt imm) s = .next ((s.fetched (.ldt imm)).takeOperand imm).endPlain := rfl

end

theorem reg_result_self {s : State} (h : s.mem.wf = true) (r : Reg) (v : Byte) :
    (s.result (regSlot r) v).reg r = v :=
  (slot_result h _ _ v).trans (if_pos rfl)

/-- Settles O29: `LDI` and `MOV` are a result to the register, `LDT` a byte to `T`. -/
theorem immediateLoadsAndMoves : Obligations.ImmediateLoadsAndMoves := by
  intro s r q imm hwf
  refine ⟨⟨_, exec_ldi s r imm, ?ldi⟩, ⟨_, exec_mov s r q, ?mov⟩, ⟨_, exec_ldt s imm, ?ldt⟩⟩
  case ldi =>
    have hreg := reg_result_self (s := (s.fetched (.ldi r imm)).incPc) hwf r imm
    exact ⟨⟨rfl, rfl, rfl⟩, pc_incPc_fetched s _, hreg, rfl, rfl, memoryKept_result _ _ imm, uartKept_refl s⟩
  case mov =>
    have hreg := reg_result_self (s := s.fetched (.mov r q)) hwf r (s.reg q)
    exact ⟨⟨rfl, rfl, rfl⟩, pc_fetched s _, hreg, rfl, rfl, memoryKept_result _ _ _, uartKept_refl s⟩
  case ldt =>
    exact ⟨rfl, rfl, rfl, pc_incPc_fetched s _, rfl, rfl, memoryKept_of_mem_eq rfl _, uartKept_refl s⟩

/-! ## `LDP` (`42_move_and_load.md` R132) -/

/-- The state in which `LDP` reads its third byte: the low byte stands in its slot. -/
def State.lowLoaded (s : State) (p : Pair) (lo hi : Byte) : State :=
  (s.fetched (.ldp p lo hi)).incPc.result (pairLow p) lo

section
variable {s : State} (p : Pair) (lo : Byte) {hi : Byte}

theorem pc_lowLoaded : (s.lowLoaded p lo hi).pc = s.pc + 2 := pc_incPc_fetched s _

theorem memoryKept_lowLoaded : MemoryKept s (s.lowLoaded p lo hi) [slotAddr (pairLow p)] :=
  memoryKept_result _ (pairLow p) lo

variable (hwf : s.mem.wf = true)
include hwf

theorem wf_lowLoaded : (s.lowLoaded p lo hi).mem.wf = true := wf_writeMem hwf _ _

/-- The third byte is the just written low byte where it is that slot (`20_memory.md` R52). -/
theorem lateByte_lowLoaded (hhi : s.readMem (s.pc + 2) = hi) :
    (s.lowLoaded p lo hi).lateByte s hi = if s.pc + 2 = slotAddr (pairLow p) then lo else hi := by
  have hread := readMem_result (s := (s.fetched (.ldp p lo hi)).incPc) hwf (pairLow p) lo (s.pc + 2)
  rw [readMem_incPc, readMem_fetched, hhi] at hread
  rw [lateByte_eq_readMem (by rw [pc_lowLoaded, hhi]), pc_lowLoaded]
  exact hread

theorem exec_ldp (hhi : s.readMem (s.pc + 2) = hi) :
    exec (.ldp p lo hi) s =
      .next ((s.lowLoaded p lo hi).incPc.result (pairHigh p)
        (if s.pc + 2 = slotAddr (pairLow p) then lo else hi)).endSlot := by
  rw [← lateByte_lowLoaded p lo hwf hhi]
  rfl

end

/-- Settles O30: the result of the low byte, then that of the byte read after it. -/
theorem loadPairImmediate : Obligations.LoadPairImmediate := by
  intro s p lo hi hwf hhi hi'
  have hwf' : (s.lowLoaded p lo hi).incPc.mem.wf = true := by rw [State.incPc_mem]; exact wf_lowLoaded p lo hwf
  have hslot := slot_result hwf' (pairHigh p)
  refine ⟨_, exec_ldp p lo hwf hhi, ⟨rfl, rfl, rfl⟩, ?pc, ?low, ?high, rfl, rfl,
    ((memoryKept_lowLoaded p lo).incPc.trans (memoryKept_result _ (pairHigh p) hi')).endSlot, uartKept_refl s⟩
  case pc => rw [pc_endSlot, pc_result, pc_incPc, pc_lowLoaded, BitVec.add_assoc]; rfl
  case high => rw [slot_endSlot, hslot, if_pos rfl]
  case low =>
    have hlow := slot_result (s := (s.fetched (.ldp p lo hi)).incPc) hwf (pairLow p) (pairLow p) lo
    rw [slot_endSlot, hslot, if_neg (pairLow_ne_pairHigh p p), slot_incPc]
    exact hlow.trans (if_pos rfl)

end Sys2Proof.Machine

/-! SUPPORT. Loads and stores: their slots through the clock cycles, and what each of them changes and leaves
(`43_memory_access.md` R140 to R145). -/

namespace Sys2Proof.Machine

/-! ## Slots through the clock cycles (`41_cycle.md` R119) -/

/-- Settles O23: no load, store, stack, call or return accesses a port or can clear `I`. -/
theorem cyclesOfMemoryAndStack : Obligations.CyclesOfMemoryAndStack := by
  intro img s r p x y z hwf hs hmem
  exact slotEnd_complete_of_isPlain img hwf hs (isPlain_of_mem hmem rfl)

/-! ## Reads after the save (`43_memory_access.md` R140) -/

section
variable (s : State)

theorem readSaved_of_ne {a : Addr} (saved : Addr) (hpl : a ≠ slotAddr .pl) (hph : a ≠ slotAddr .ph) :
    s.readSaved saved a = s.readMem a := by
  rw [State.readSaved, if_neg hph, if_neg hpl]

@[simp] theorem readSaved_pl (saved : Addr) : s.readSaved saved (slotAddr .pl) = loByte saved := by
  rw [State.readSaved, if_neg (by decide), if_pos rfl]

@[simp] theorem readSaved_ph (saved : Addr) : s.readSaved saved (slotAddr .ph) = hiByte saved := if_pos rfl

theorem slot_savePc_of_ne {x : Slot} (hpl : x ≠ .pl) (hph : x ≠ .ph) : s.savePc.slot x = s.slot x :=
  (slot_writeMem_slotAddr_ne _ _ hph).trans (slot_writeMem_slotAddr_ne _ _ hpl)

theorem readSaved_fetched (i : Instr) (saved a : Addr) : (s.fetched i).readSaved saved a = s.readSaved saved a := rfl

theorem pairAddr_fetched (i : Instr) (p : Pair) : (s.fetched i).pairAddr p = s.pairAddr p := rfl

theorem pairAddr_setT (v : Byte) (p : Pair) : (s.setT v).pairAddr p = s.pairAddr p := rfl

/-- The save leaves the pointer in a pair alone. -/
theorem pairAddr_savePc (p : Pair) : s.savePc.pairAddr p = s.pairAddr p := by
  obtain ⟨hlpl, hlph, -, -⟩ := pairLow_ne p
  obtain ⟨hhpl, hhph, -, -⟩ := pairHigh_ne p
  rw [State.pairAddr, slot_savePc_of_ne s hhpl hhph, slot_savePc_of_ne s hlpl hlph]
  rfl

end

theorem readMem_savePc_eq_readSaved {s : State} (hwf : s.mem.wf = true) (a : Addr) :
    s.savePc.readMem a = s.readSaved s.pc a :=
  readMem_savePc hwf a

/-! ## The restored pc stands in its slots (`30_encoding.md` R75) -/

theorem pcSaved_restorePc {u : State} {saved : Addr} (h : u.restorePc.pc = saved) : PcSaved u.restorePc saved := by
  rw [← h, pc_restorePc]
  exact ⟨(loByte_joinBytes _ _).symm, (hiByte_joinBytes _ _).symm⟩

/-! ## A store between the save and the restore of the pc (`43_memory_access.md` R142, R145) -/

/-- `SAVE`, a byte through `T` to an address, `RESTORE`. -/
def State.savedStore (s : State) (a : Addr) (v : Byte) : State := ((s.savePc.setT v).writeMem a v).restorePc

section
variable {s : State} (hwf : s.mem.wf = true) (a : Addr) (v : Byte)
include hwf

theorem wf_savedStore : (s.savedStore a v).mem.wf = true := wf_writeMem (wf_savePc hwf) a v

theorem readMem_savedStore (b : Addr) :
    (s.savedStore a v).readMem b = if b = a then v else s.readSaved s.pc b := by
  rw [← readMem_savePc_eq_readSaved hwf]
  exact readMem_writeMem (s := s.savePc.setT v) (wf_savePc hwf) a b v

theorem readMem_savedStore_self : (s.savedStore a v).readMem a = v :=
  (readMem_savedStore hwf a v a).trans (if_pos rfl)

theorem slot_savedStore (x : Slot) :
    (s.savedStore a v).slot x = if a = slotAddr x then v else s.readSaved s.pc (slotAddr x) := by
  simp only [State.slot, readMem_savedStore hwf, eq_comm]

/-- `PL` and `PH` hold the saved pc except where the store hits them (`70_reset_and_hazards.md` R249). -/
theorem pcSlots_savedStore {saved : Addr} (hpc : s.pc = saved) :
    (s.savedStore a v).slot .pl = (if a = slotAddr .pl then v else loByte saved) ∧
      (s.savedStore a v).slot .ph = (if a = slotAddr .ph then v else hiByte saved) := by
  simp only [slot_savedStore hwf, readSaved_pl, readSaved_ph, hpc, and_self]

theorem memoryKept_savedStore : MemoryKept s (s.savedStore a v) [slotAddr .pl, slotAddr .ph, a] := fun b hb => by
  simp only [List.mem_cons, List.not_mem_nil, or_false, not_or] at hb
  obtain ⟨hpl, hph, ha⟩ := hb
  rw [readMem_savedStore hwf, if_neg ha, readSaved_of_ne s s.pc hpl hph]

end

theorem memoryKept_savedResult {s : State} (hwf : s.mem.wf = true) (x : Slot) (v : Byte) :
    MemoryKept s (s.savedResult x v) [slotAddr .pl, slotAddr .ph, slotAddr x] :=
  fun _ ha => readMem_savedResult_ne v hwf ha

/-! ## The pointer write-back and the restore after it (`43_memory_access.md` R141, R143) -/

/-- The pointer written back, then `RESTORE`. -/
def State.pointerWritten (s : State) (p : Pair) (a : Addr) : State := (s.writeBack p a).restorePc

/-- An earlier restore leaves no trace after the last one. -/
theorem restorePc_writeBack_restorePc (u : State) (p : Pair) (a : Addr) :
    (u.restorePc.writeBack p a).restorePc = (u.writeBack p a).restorePc := rfl

section
variable {s : State} (hwf : s.mem.wf = true) (p : Pair) (a : Addr)
include hwf

theorem readMem_pointerWritten (b : Addr) :
    (s.pointerWritten p a).readMem b =
      if b = slotAddr (pairHigh p) then hiByte a else if b = slotAddr (pairLow p) then loByte a else s.readMem b :=
  readMem_writeBack hwf p a b

theorem readMem_pointerWritten_ne {b : Addr} (hlow : b ≠ slotAddr (pairLow p)) (hhigh : b ≠ slotAddr (pairHigh p)) :
    (s.pointerWritten p a).readMem b = s.readMem b := by
  rw [readMem_pointerWritten hwf, if_neg hhigh, if_neg hlow]

theorem pairAddr_pointerWritten : (s.pointerWritten p a).pairAddr p = a := by
  simp [State.pairAddr, State.slot, readMem_pointerWritten hwf]

theorem slot_pl_pointerWritten : (s.pointerWritten p a).slot .pl = s.slot .pl :=
  readMem_pointerWritten_ne hwf p a (by simp) (by simp)

theorem slot_ph_pointerWritten : (s.pointerWritten p a).slot .ph = s.slot .ph :=
  readMem_pointerWritten_ne hwf p a (by simp) (by simp)

theorem pc_pointerWritten : (s.pointerWritten p a).pc = joinBytes (s.slot .ph) (s.slot .pl) := by
  rw [← slot_ph_pointerWritten hwf p a, ← slot_pl_pointerWritten hwf p a]
  rfl

theorem memoryKept_pointerWritten :
    MemoryKept s (s.pointerWritten p a) [slotAddr (pairLow p), slotAddr (pairHigh p)] := fun b hb => by
  simp only [List.mem_cons, List.not_mem_nil, or_false, not_or] at hb
  obtain ⟨hlow, hhigh⟩ := hb
  exact readMem_pointerWritten_ne hwf p a hlow hhigh

end

/-! ## Loads through a pair (`43_memory_access.md` R140, R141) -/

section
variable {s : State} (hwf : s.mem.wf = true) (r : Reg) (p : Pair)
include hwf

theorem exec_ld :
    exec (.ld r p) s =
      .next ((s.fetched (.ld r p)).savedResult (regSlot r) (s.readSaved (s.pc + 1) (s.pairAddr p))) := by
  simp only [exec, execLd, readMem_savePc_eq_readSaved (s := s.fetched (.ld r p)) hwf, pairAddr_savePc,
    pairAddr_fetched, readSaved_fetched, pc_fetched, State.savedResult]

theorem exec_ldpi :
    exec (.ldpi r p) s =
      .next (((s.fetched (.ldpi r p)).savedResult (regSlot r) (s.readSaved (s.pc + 1) (s.pairAddr p))).pointerWritten p
        (s.pairAddr p + 1)) := by
  simp only [exec, execLdpi, readMem_savePc_eq_readSaved (s := s.fetched (.ldpi r p)) hwf, pairAddr_savePc,
    pairAddr_fetched, readSaved_fetched, pc_fetched, State.savedResult, State.pointerWritten,
    restorePc_writeBack_restorePc]

end

/-- A result to a register leaves the pc after the fetch as it is. -/
theorem pc_savedResult_regSlot {s : State} (hwf : s.mem.wf = true) (r : Reg) (v : Byte) :
    (s.savedResult (regSlot r) v).pc = s.pc := by
  obtain ⟨hpl, hph, -, -⟩ := regSlot_ne r
  exact pc_savedResult v hwf ⟨hpl, hph⟩

/-- Settles O31: `LD` is a result between the save and the restore. -/
theorem loadIndirect : Obligations.LoadIndirect := by
  intro s r p hwf next v
  have hwf' : (s.fetched (.ld r p)).mem.wf = true := hwf
  have hpc := (pc_savedResult_regSlot hwf' r v).trans (pc_fetched s _)
  exact ⟨_, exec_ld hwf r p, ⟨rfl, rfl, rfl⟩, hpc, slot_savedResult_self v hwf', rfl, pcSaved_restorePc hpc, rfl,
    memoryKept_savedResult hwf' (regSlot r) v, uartKept_refl s⟩

/-- Settles O32: the result of `LD`, then the pointer over it. -/
theorem loadIndirectIncrement : Obligations.LoadIndirectIncrement := by
  intro s r p hwf next a
  have hwf' : (s.fetched (.ldpi r p)).mem.wf = true := hwf
  have hloaded := wf_savedResult (x := regSlot r) (s.readSaved next a) hwf'
  have hpc := (pc_pointerWritten hloaded p (a + 1)).trans
    ((pc_savedResult_regSlot hwf' r _).trans (pc_fetched s _))
  refine ⟨_, exec_ldpi hwf r p, ⟨rfl, rfl, rfl⟩, hpc, fun hlow hhigh => ?reg,
    pairAddr_pointerWritten hloaded p (a + 1), rfl, pcSaved_restorePc hpc, rfl, ?kept, uartKept_refl s⟩
  case reg =>
    exact (readMem_pointerWritten_ne hloaded p _ (mt slotAddr_inj.1 hlow) (mt slotAddr_inj.1 hhigh)).trans
      (slot_savedResult_self _ hwf')
  case kept =>
    exact (memoryKept_savedResult hwf' (regSlot r) _).trans (memoryKept_pointerWritten hloaded p (a + 1))

/-! ## Stores through a pair (`43_memory_access.md` R142, R143, `70_reset_and_hazards.md` R249) -/

section
variable (s : State) (p : Pair) (r : Reg)

theorem exec_st : exec (.st p r) s = .next ((s.fetched (.st p r)).savedStore (s.pairAddr p) (s.reg r)) := by
  simp only [exec, execSt, savePc_setT, pairAddr_setT, pairAddr_savePc, pairAddr_fetched, State.savedStore]

theorem exec_stpi :
    exec (.stpi p r) s =
      .next (((s.fetched (.stpi p r)).savedStore (s.pairAddr p) (s.reg r)).pointerWritten p (s.pairAddr p + 1)) := by
  simp only [exec, execStpi, savePc_setT, pairAddr_setT, pairAddr_savePc, pairAddr_fetched, State.savedStore,
    State.pointerWritten, restorePc_writeBack_restorePc]

end

/-- Settles O33: `ST` is a store between the save and the restore. -/
theorem storeIndirect : Obligations.StoreIndirect := by
  intro s p r hwf next a
  have hwf' : (s.fetched (.st p r)).mem.wf = true := hwf
  obtain ⟨hlow, hhigh⟩ := pcSlots_savedStore hwf' a (s.reg r) (pc_fetched s _)
  exact ⟨_, exec_st s p r, ⟨rfl, rfl, rfl⟩, readMem_savedStore_self hwf' a _, rfl, hlow, hhigh, rfl, rfl,
    memoryKept_savedStore hwf' a _, uartKept_refl s⟩

/-- Settles O34: the store of `ST`, then the pointer over it. -/
theorem storeIndirectIncrement : Obligations.StoreIndirectIncrement := by
  intro s p r hwf next a
  have hwf' : (s.fetched (.stpi p r)).mem.wf = true := hwf
  have hstored := wf_savedStore hwf' a (s.reg r)
  obtain ⟨hlow, hhigh⟩ := pcSlots_savedStore hwf' a (s.reg r) (pc_fetched s _)
  exact ⟨_, exec_stpi s p r, ⟨rfl, rfl, rfl⟩,
    fun hl hh => (readMem_pointerWritten_ne hstored p _ hl hh).trans (readMem_savedStore_self hwf' a _),
    pairAddr_pointerWritten hstored p (a + 1), rfl, (slot_pl_pointerWritten hstored p _).trans hlow,
    (slot_ph_pointerWritten hstored p _).trans hhigh, rfl, rfl,
    (memoryKept_savedStore hwf' a _).trans (memoryKept_pointerWritten hstored p (a + 1)), uartKept_refl s⟩

/-! ## An absolute address (`43_memory_access.md` R144, `20_memory.md` R52) -/

/-- The state in which `i` has taken its address bytes: the low byte stands in `W`, the high byte in `T`. -/
def State.addressTaken (s : State) (i : Instr) (lo hi : Byte) : State := (s.fetched i).takeAddress s lo hi

section
variable {s : State} (i : Instr) (lo hi : Byte)

theorem takeAddress_fetched : (s.fetched i).takeAddress s lo hi = s.addressTaken i lo hi := rfl

theorem pc_addressTaken : (s.addressTaken i lo hi).pc = s.pc + 3 := by
  simp [State.addressTaken, State.takeAddress, BitVec.add_assoc]

theorem memoryKept_addressTaken : MemoryKept s (s.addressTaken i lo hi) [slotAddr .w] :=
  memoryKept_writeMem ((s.fetched i).takeOperand lo) (slotAddr .w) lo

theorem reg_addressTaken (r : Reg) : (s.addressTaken i lo hi).reg r = s.reg r :=
  memoryKept_addressTaken i lo hi _ (by simp)

variable (hwf : s.mem.wf = true)
include hwf

theorem wf_addressTaken : (s.addressTaken i lo hi).mem.wf = true := wf_writeMem hwf _ _

theorem readMem_addressTaken (a : Addr) :
    (s.addressTaken i lo hi).readMem a = if a = slotAddr .w then lo else s.readMem a :=
  readMem_setSlot (s := (s.fetched i).takeOperand lo) hwf .w a lo

theorem slot_w_addressTaken : (s.addressTaken i lo hi).slot .w = lo :=
  (readMem_addressTaken i lo hi hwf _).trans (if_pos rfl)

/-- The high address byte is read after `W` is written. -/
theorem t_addressTaken (hhi : s.readMem (s.pc + 2) = hi) :
    (s.addressTaken i lo hi).t = if s.pc + 2 = slotAddr .w then lo else hi := by
  have hpc : (((s.fetched i).takeOperand lo).setSlot .w lo).pc = s.pc + 2 := pc_incPc_fetched s i
  have hlate := lateByte_eq_readMem (before := s) (v := hi) (hpc.symm ▸ hhi)
  have hread := readMem_setSlot (s := (s.fetched i).takeOperand lo) hwf .w (s.pc + 2) lo
  rw [hpc] at hlate
  rw [readMem_takeOperand, readMem_fetched, hhi] at hread
  exact hlate.trans hread

/-- What the load reads: `W`, `PL` and `PH` as the instruction has written them. -/
theorem readSaved_addressTaken (saved a : Addr) :
    (s.addressTaken i lo hi).readSaved saved a = if a = slotAddr .w then lo else s.readSaved saved a := by
  unfold State.readSaved
  rw [readMem_addressTaken i lo hi hwf]
  by_cases hw : a = slotAddr .w
  · simp [hw]
  · simp only [if_neg hw]

end

/-! ## Loads and stores at an absolute address (`43_memory_access.md` R144, R145) -/

/-- The address that `LDA` and `STA` form from their operand bytes. -/
def State.absAddr (s : State) (lo hi : Byte) : Addr := joinBytes (if s.pc + 2 = slotAddr .w then lo else hi) lo

section
variable {s : State} {lo hi : Byte} (hwf : s.mem.wf = true) (hhi : s.readMem (s.pc + 2) = hi)
include hwf hhi

theorem joinBytes_addressTaken (i : Instr) :
    joinBytes (s.addressTaken i lo hi).t ((s.addressTaken i lo hi).slot .w) = s.absAddr lo hi := by
  rw [t_addressTaken i lo hi hwf hhi, slot_w_addressTaken i lo hi hwf]
  rfl

theorem exec_lda (r : Reg) :
    exec (.lda r lo hi) s =
      .next ((s.addressTaken (.lda r lo hi) lo hi).savedResult (regSlot r)
        (if s.absAddr lo hi = slotAddr .w then lo else s.readSaved (s.pc + 3) (s.absAddr lo hi))) := by
  simp only [exec, execLda, takeAddress_fetched, State.savePc_t, slot_w_savePc, joinBytes_addressTaken hwf hhi,
    readMem_savePc_eq_readSaved (wf_addressTaken (.lda r lo hi) lo hi hwf), pc_addressTaken,
    readSaved_addressTaken _ lo hi hwf, State.savedResult]

theorem exec_sta (r : Reg) :
    exec (.sta lo hi r) s =
      .next ((s.addressTaken (.sta lo hi r) lo hi).savedStore (s.absAddr lo hi) (s.reg r)) := by
  simp only [exec, execSta, takeAddress_fetched, State.savePc_t, slot_w_savePc, joinBytes_addressTaken hwf hhi,
    reg_savePc, reg_addressTaken, State.savedStore]

end

/-- Settles O35: the address bytes, then a result between the save and the restore. -/
theorem loadAbsolute : Obligations.LoadAbsolute := by
  intro s r lo hi hwf hhi next a v
  have hwf' := wf_addressTaken (.lda r lo hi) lo hi hwf
  have hpc := (pc_savedResult_regSlot hwf' r v).trans (pc_addressTaken _ lo hi)
  have hw : ((s.addressTaken (.lda r lo hi) lo hi).savedResult (regSlot r) v).slot .w = lo :=
    (readMem_savedResult_ne v hwf' (by simp)).trans (slot_w_addressTaken _ lo hi hwf)
  exact ⟨_, exec_lda hwf hhi r, ⟨rfl, rfl, rfl⟩, hpc, slot_savedResult_self v hwf', rfl, hw, pcSaved_restorePc hpc,
    rfl, (memoryKept_addressTaken _ lo hi).trans (memoryKept_savedResult hwf' (regSlot r) v), uartKept_refl s⟩

/-- Settles O36: the address bytes, then a store between the save and the restore. -/
theorem storeAbsolute : Obligations.StoreAbsolute := by
  intro s r lo hi hwf hhi next a
  have hwf' := wf_addressTaken (.sta lo hi r) lo hi hwf
  have hw := slot_savedStore hwf' a (s.reg r) .w
  obtain ⟨hlow, hhigh⟩ := pcSlots_savedStore hwf' a (s.reg r) (pc_addressTaken _ lo hi)
  rw [readSaved_of_ne _ _ (by decide) (by decide), readMem_addressTaken _ lo hi hwf, if_pos rfl] at hw
  exact ⟨_, exec_sta hwf hhi r, ⟨rfl, rfl, rfl⟩, readMem_savedStore_self hwf' a _, rfl, hw, hlow, hhigh, rfl, rfl,
    (memoryKept_addressTaken _ lo hi).trans (memoryKept_savedStore hwf' a _), uartKept_refl s⟩

end Sys2Proof.Machine

/-! SUPPORT. Arithmetic, shifts and flag access: their slots through the clock cycles, and what each of them changes and
leaves (`44_arithmetic_shift.md` R150 to R160, `45_logic_bits_flags.md` R176, R177). -/

namespace Sys2Proof.Machine

/-! ## Slots through the clock cycles (`41_cycle.md` R119) -/

/-- Settles O24: no addition, shift, rotate or test accesses a port or can clear `I`. -/
theorem cyclesOfArithmetic : Obligations.CyclesOfArithmetic := by
  intro img s r q x hwf hs hmem
  exact slotEnd_complete_of_isPlain img hwf hs (isPlain_of_mem hmem rfl)

/-! ## The flags and the values of the results (`40_alu_operations.md` R96, R97) -/

theorem flagsOfSum_addFlags (r l : Byte) : FlagsOfSum (addFlags r l) l r :=
  ⟨flagC_addFlags r l, flagS_addFlags r l, flagZ_addFlags r l, flagI_addFlags r l⟩

theorem flagsOfShift_shrFlags (l : Byte) : FlagsOfShift (shrFlags l) l :=
  ⟨flagC_shrFlags l, flagS_shrFlags l, flagZ_shrFlags l, flagI_shrFlags l⟩

theorem toNat_carryByte (f : Nibble) : (carryByte f).toNat = (flagC f).toNat := by
  unfold carryByte
  cases flagC f <;> rfl

/-- The doubled byte is even, so the carry put into it does not wrap (`44_arithmetic_shift.md` R156). -/
theorem toNat_rotateLeft (f : Nibble) (v : Byte) :
    (aluAdd (carryByte f) (aluAdd v v)).toNat = 2 * v.toNat % 256 + (flagC f).toNat := by
  have hcarry := Bool.toNat_le (flagC f)
  simp only [aluAdd, BitVec.toNat_add, toNat_carryByte]
  omega

/-- The halved byte leaves bit 7 to the carry (`44_arithmetic_shift.md` R157). -/
theorem toNat_rotateRight (c : Bool) (v : Byte) :
    ((v >>> 1) ||| (if c then 0x80 else 0x00)).toNat = v.toNat / 2 + 128 * c.toNat := by
  have hhalf : v.toNat / 2 < 2 ^ 7 := Nat.div_lt_of_lt_mul v.isLt
  rw [BitVec.toNat_or, toNat_ushiftRight_one]
  cases c with
  | false => exact Nat.or_zero _
  | true =>
    rw [Nat.or_comm, Nat.add_comm]
    exact (Nat.two_pow_add_eq_or_of_lt hhalf 1).symm

/-- `STF` keeps `I` set exactly with bit 3 of the register set. -/
theorem flagI_busFlags (v : Byte) : flagI (busFlags v) = v.getLsbD 3 := by
  simp [flagI, busFlags]

/-! ## The bytes of an instruction, all read before it saves the pc (`30_encoding.md` R69) -/

/-- From `s` to `u` the bytes of `i` are read: `IR` holds the opcode, the pc has passed them, memory and the
UART are as before. -/
structure BytesRead (i : Instr) (s u : State) : Prop where
  ir : u.ir = i.opcode
  pc : u.pc = s.pc + BitVec.ofNat 16 i.bytes
  mem : u.mem = s.mem
  uart : UartKept s u

theorem bytesRead_fetched (s : State) {i : Instr} (h : i.bytes = 1) : BytesRead i s (s.fetched i) where
  ir := rfl
  pc := by rw [pc_fetched, h]; rfl
  mem := rfl
  uart := uartKept_refl s

theorem bytesRead_takeOperand (s : State) {i : Instr} (v : Byte) (h : i.bytes = 2) :
    BytesRead i s ((s.fetched i).takeOperand v) where
  ir := rfl
  pc := by rw [pc_takeOperand, pc_fetched, BitVec.add_assoc, h]; rfl
  mem := rfl
  uart := uartKept_refl s

/-! ## Between the save and the restore of the pc (`30_encoding.md` R75) -/

/-- In `u` the slot of `i` from `s` is between `SAVE` and `RESTORE`: `IR` holds the opcode, `PL` and `PH` hold `next`,
memory, in canonical form, has changed at the addresses `written` only, the UART not at all. -/
structure PcHeld (i : Instr) (next : Addr) (written : List Addr) (s u : State) : Prop where
  wf : u.mem.wf = true
  ir : u.ir = i.opcode
  saved : PcSaved u next
  kept : MemoryKept s u written
  uart : UartKept s u

/-- The slot of `i` from `s` has ended in `t`, with the pc at `next`, which stands in `PL` and `PH` too. -/
structure PcRestored (i : Instr) (next : Addr) (written : List Addr) (s t : State) : Prop where
  ended : SlotEnded i t
  pc : t.pc = next
  saved : PcSaved t next
  kept : MemoryKept s t written
  uart : UartKept s t

/-- The slot has ended so, with `v` in the register `r`. -/
structure RegWritten (i : Instr) (next : Addr) (written : List Addr) (r : Reg) (v : Byte) (s t : State) : Prop extends
    PcRestored i next (written ++ [slotAddr (regSlot r)]) s t where
  reg : t.reg r = v

theorem pcHeld_savePc {i : Instr} {s u : State} (hwf : s.mem.wf = true) (h : BytesRead i s u) :
    PcHeld i (s.pc + BitVec.ofNat 16 i.bytes) [slotAddr .pl, slotAddr .ph] s u.savePc := by
  have hread := readMem_savePc (s := u) (h.mem ▸ hwf)
  refine ⟨wf_savePc (h.mem ▸ hwf), h.ir, ?saved, fun a ha => ?kept, h.uart⟩
  case saved => simp [PcSaved, State.slot, hread, h.pc]
  case kept =>
    simp only [List.mem_cons, List.not_mem_nil, or_false, not_or] at ha
    obtain ⟨hpl, hph⟩ := ha
    rw [hread, if_neg hph, if_neg hpl, readMem_of_mem_eq h.mem]

namespace PcHeld

variable {i : Instr} {next : Addr} {written : List Addr} {s u : State} (h : PcHeld i next written s u)
include h

theorem setFlags (f : Nibble) : PcHeld i next written s (u.setFlags f) := ⟨h.wf, h.ir, h.saved, h.kept, h.uart⟩

theorem setT (v : Byte) : PcHeld i next written s (u.setT v) := ⟨h.wf, h.ir, h.saved, h.kept, h.uart⟩

theorem setSlot {x : Slot} (v : Byte) (hpl : .pl ≠ x) (hph : .ph ≠ x) :
    PcHeld i next (written ++ [slotAddr x]) s (u.setSlot x v) := by
  obtain ⟨hlow, hhigh⟩ := h.saved
  exact ⟨wf_setSlot h.wf x v, h.ir,
    ⟨(slot_writeMem_slotAddr_ne u v hpl).trans hlow, (slot_writeMem_slotAddr_ne u v hph).trans hhigh⟩,
    h.kept.trans (memoryKept_writeMem u (slotAddr x) v), h.uart⟩

theorem restorePc : PcRestored i next written s u.restorePc := by
  obtain ⟨hlow, hhigh⟩ := h.saved
  exact ⟨⟨h.ir, rfl, rfl⟩, by rw [pc_restorePc, hlow, hhigh, joinBytes_hiByte_loByte], h.saved, h.kept, h.uart⟩

theorem restorePc_result (r : Reg) (v : Byte) :
    RegWritten i next written r v s (u.result (regSlot r) v).restorePc := by
  obtain ⟨hpl, hph, -, -⟩ := ne_regSlot r
  exact ⟨((h.setT v).setSlot v hpl hph).restorePc, reg_result_self h.wf r v⟩

theorem arithmetic (r : Reg) (v : Byte) (f : Nibble) :
    RegWritten i next written r v s (u.arithmetic r v f) :=
  (h.setFlags f).restorePc_result r v

end PcHeld

/-! ## The end of an arithmetic instruction -/

theorem slot_w_arithmetic (u : State) (r : Reg) (v : Byte) (f : Nibble) : (u.arithmetic r v f).slot .w = u.slot .w := by
  obtain ⟨-, -, -, hw⟩ := ne_regSlot r
  exact slot_writeMem_slotAddr_ne ((u.setFlags f).setT v) v hw

/-- The addition after the save works on the register as it stands at the start of the slot. -/
theorem addTo_savePc {i : Instr} {s u : State} (h : BytesRead i s u) (r : Reg) (k : Byte) :
    u.savePc.addTo r k = u.savePc.arithmetic r (s.reg r + k) (addFlags k (s.reg r)) := by
  have hreg : u.savePc.reg r = s.reg r := (reg_savePc u r).trans (readMem_of_mem_eq h.mem _)
  rw [State.addTo, hreg]
  rfl

/-! ## Additions (`44_arithmetic_shift.md` R150 to R154, R158, R159) -/

/-- The instructions that add a byte to the register `r`, each with that byte. -/
def additions (s : State) (r q : Reg) (imm : Byte) : List (Instr × Byte) :=
  [(.inc r, 0x01), (.dec r, 0xFF), (.incc r, carryByte s.flags), (.decc r, if flagC s.flags then 0x00 else 0xFF),
    (.shl r, s.reg r), (.add r q, s.reg q), (.addi r imm, imm)]

theorem exec_of_mem_additions {s : State} {r q : Reg} {imm k : Byte} {i : Instr} (h : (i, k) ∈ additions s r q imm) :
    ∃ u : State, BytesRead i s u ∧ exec i s = .next (u.savePc.addTo r k) := by
  simp only [additions, List.mem_cons, Prod.mk.injEq, List.not_mem_nil, or_false] at h
  obtain ⟨rfl, rfl⟩ | ⟨rfl, rfl⟩ | ⟨rfl, rfl⟩ | ⟨rfl, rfl⟩ | ⟨rfl, rfl⟩ | ⟨rfl, rfl⟩ | ⟨rfl, rfl⟩ := h
  case inr.inr.inr.inr.inr.inr => exact ⟨_, bytesRead_takeOperand s _ rfl, rfl⟩
  all_goals exact ⟨_, bytesRead_fetched s rfl, rfl⟩

/-- Settles O37: each adds its byte to the register between the save and the restore. -/
theorem additionsWriteSumAndFlags : Obligations.AdditionsWriteSumAndFlags := by
  intro s r q imm i k hwf c hmem next
  obtain ⟨u, hread, hexec⟩ := exec_of_mem_additions (q := q) (imm := imm) hmem
  rw [addTo_savePc hread] at hexec
  obtain ⟨⟨hended, hpc, hsaved, hkept, huart⟩, hreg⟩ :=
    (pcHeld_savePc hwf hread).arithmetic r (s.reg r + k) (addFlags k (s.reg r))
  exact ⟨_, hexec, hended, hpc, hreg, rfl, flagsOfSum_addFlags _ _, hsaved, hkept, huart⟩

/-! ## Shifts and rotates (`44_arithmetic_shift.md` R155 to R157) -/

/-- `RCL` before the carry goes in: the pc is saved and the flag byte waits in `W` (R156). -/
def State.rclSaved (s : State) (r : Reg) : State :=
  (s.fetched (.rcl r)).savePc.setSlot .w (aluAddf (s.reg r) (s.reg r))

section
variable (s : State) (r : Reg)

theorem exec_shr : exec (.shr r) s =
    .next ((s.fetched (.shr r)).savePc.arithmetic r (s.reg r >>> 1) (shrFlags (s.reg r))) := rfl

theorem exec_rcl : exec (.rcl r) s =
    .next ((s.rclSaved r).arithmetic r (aluAdd (carryByte s.flags) (aluAdd (s.reg r) (s.reg r)))
      (addFlags (s.reg r) (s.reg r))) := rfl

theorem exec_rcr : exec (.rcr r) s =
    .next ((s.fetched (.rcr r)).savePc.arithmetic r ((s.reg r >>> 1) ||| (if flagC s.flags then 0x80 else 0x00))
      (shrFlags (s.reg r))) := rfl

variable {s} (hwf : s.mem.wf = true)
include hwf

theorem pcHeld_rclSaved :
    PcHeld (.rcl r) (s.pc + 1) [slotAddr .pl, slotAddr .ph, slotAddr .w] s (s.rclSaved r) :=
  (pcHeld_savePc hwf (bytesRead_fetched s rfl)).setSlot _ (by decide) (by decide)

theorem slot_w_rclSaved : (s.rclSaved r).slot .w = flagByte (addFlags (s.reg r) (s.reg r)) :=
  (slot_setSlot (wf_savePc (s := s.fetched (.rcl r)) hwf) .w .w _).trans (if_pos rfl)

end

/-- Settles O38: each is a result with its flags between the save and the restore, for `RCL` after the flag byte in
`W`. -/
theorem shiftsAndRotates : Obligations.ShiftsAndRotates := by
  intro s r hwf next v c
  refine ⟨⟨_, exec_shr s r, ?shr⟩, ⟨_, exec_rcl s r, ?rcl⟩, ⟨_, exec_rcr s r, ?rcr⟩⟩
  case shr =>
    have hheld := pcHeld_savePc hwf (bytesRead_fetched s (i := .shr r) rfl)
    obtain ⟨⟨hended, hpc, hsaved, hkept, huart⟩, hreg⟩ := hheld.arithmetic r (v >>> 1) (shrFlags v)
    exact ⟨hended, hpc, (congrArg _ hreg).trans (toNat_ushiftRight_one v), hreg.symm, flagsOfShift_shrFlags v, hsaved,
      hkept, huart⟩
  case rcl =>
    obtain ⟨⟨hended, hpc, hsaved, hkept, huart⟩, hreg⟩ :=
      (pcHeld_rclSaved r hwf).arithmetic r (aluAdd (carryByte s.flags) (aluAdd v v)) (addFlags v v)
    exact ⟨hended, hpc, (congrArg _ hreg).trans (toNat_rotateLeft s.flags v), hreg.symm, flagsOfSum_addFlags v v,
      (slot_w_arithmetic _ r _ _).trans (slot_w_rclSaved r hwf), hsaved, hkept, huart⟩
  case rcr =>
    have hheld := pcHeld_savePc hwf (bytesRead_fetched s (i := .rcr r) rfl)
    obtain ⟨⟨hended, hpc, hsaved, hkept, huart⟩, hreg⟩ :=
      hheld.arithmetic r ((v >>> 1) ||| (if c then 0x80 else 0x00)) (shrFlags v)
    exact ⟨hended, hpc, (congrArg _ hreg).trans (toNat_rotateRight c v), hreg.symm, flagsOfShift_shrFlags v, hsaved,
      hkept, huart⟩

/-! ## Test and flag access (`44_arithmetic_shift.md` R160, `45_logic_bits_flags.md` R176, R177) -/

section
variable (s : State) (r : Reg)

theorem exec_tst : exec (.tst r) s =
    .next ((s.fetched (.tst r)).savePc.setFlags (addFlags 0x00 (s.reg r))).restorePc := rfl

theorem exec_ldf : exec (.ldf r) s =
    .next ((s.fetched (.ldf r)).savePc.result (regSlot r) (flagByte s.flags)).restorePc := rfl

end

theorem exec_stf_of_bit {s : State} {r : Reg} (h : (s.reg r).getLsbD 3 = true) :
    exec (.stf r) s = .next ((s.fetched (.stf r)).setFlags (busFlags (s.reg r))).endSlot := by
  rw [exec_stf, if_pos ((flagI_busFlags _).trans h)]

/-- Settles O42: `TST` and `LDF` write between the save and the restore, `STF` only after its fetch. -/
theorem testAndFlagAccess : Obligations.TestAndFlagAccess := by
  intro s r hwf next
  refine ⟨⟨_, exec_tst s r, ?tst⟩, ⟨_, exec_ldf s r, ?ldf⟩, fun hbit => ⟨_, exec_stf_of_bit hbit, ?stf⟩⟩
  case tst =>
    obtain ⟨hended, hpc, hsaved, hkept, huart⟩ :=
      ((pcHeld_savePc hwf (bytesRead_fetched s (i := .tst r) rfl)).setFlags (addFlags 0x00 (s.reg r))).restorePc
    exact ⟨hended, hpc, rfl, flagsOfSum_addFlags _ _, hkept _ (by simp), hsaved, hkept, huart⟩
  case ldf =>
    obtain ⟨⟨hended, hpc, hsaved, hkept, huart⟩, hreg⟩ :=
      (pcHeld_savePc hwf (bytesRead_fetched s (i := .ldf r) rfl)).restorePc_result r (flagByte s.flags)
    exact ⟨hended, hpc, hreg, rfl, rfl, hsaved, hkept, huart⟩
  case stf => exact ⟨⟨rfl, rfl, rfl⟩, pc_fetched s _, rfl, rfl, memoryKept_of_mem_eq rfl _, uartKept_refl s⟩

end Sys2Proof.Machine

/-! SUPPORT. Logic, the two halves of the bit move, and `STF` of a value that clears `I`: their slots through the clock
cycles, and what each of them changes and leaves (`45_logic_bits_flags.md` R165 to R177). -/

namespace Sys2Proof.Machine

/-! ## Slots through the clock cycles (`41_cycle.md` R119) -/

/-- The slot of an instruction whose port, if it accesses one, exists, and which leaves `I` set, completes as its
meaning says. -/
theorem slotEnd_complete_of_not_missing (img : BootImage) {s : State} (hwf : s.mem.wf = true) (hs : s.atFetch = true)
    (hport : s.fetchInstr.usesMissingPort = false)
    (hstf : ∀ r : Reg, s.fetchInstr = .stf r → (s.reg r).getLsbD 3 = true) :
    ∃ t : State, exec s.fetchInstr s = .next t ∧ slotEnd img s = .complete t s.fetchInstr.steps := by
  cases haccess : accessesPort s.fetchInstr with
  | true => exact slotEnd_port3 img hs haccess hport
  | false => exact slotEnd_complete img hs hwf haccess fun r hr => (flagI_busFlags _).trans (hstf r hr)

/-- The instructions that neither access a missing port nor can clear `I`. -/
def staysNormal (i : Instr) : Bool := !i.usesMissingPort && !i.isStf

/-- Settles O25: every instruction of the list stays in the normal regime, and so does the `STF` of a value with
bit 3 = 1. -/
theorem cyclesOfLogicAndPorts : Obligations.CyclesOfLogicAndPorts := by
  intro img s r q x y hwf hs h
  rcases h with hmem | ⟨hi, hbit⟩
  case inl =>
    have hall : staysNormal s.fetchInstr = true := List.all_eq_true.1 rfl _ hmem
    rw [staysNormal, Bool.and_eq_true, Bool.not_eq_true', Bool.not_eq_true'] at hall
    obtain ⟨hport, hstf⟩ := hall
    refine slotEnd_complete_of_not_missing img hwf hs hport fun r' hr => ?_
    rw [hr] at hstf
    cases hstf
  case inr =>
    refine slotEnd_complete_of_not_missing img hwf hs (by rw [hi]; rfl) fun r' hr => ?_
    obtain rfl := Instr.stf.inj (hi.symm.trans hr)
    exact hbit

/-! ## Bitwise logic (`45_logic_bits_flags.md` R165 to R168) -/

section
variable (s : State) (r q : Reg) (imm : Byte)

theorem exec_andi :
    exec (.andi r imm) s =
      .next (((s.fetched (.andi r imm)).takeOperand imm).savedResult (regSlot r) (s.reg r &&& imm)) := by
  simp only [exec, execAndi, reg_savePc]
  rfl

theorem exec_ori :
    exec (.ori r imm) s =
      .next (((s.fetched (.ori r imm)).takeOperand imm).savedResult (regSlot r) (s.reg r ||| imm)) := by
  simp only [exec, execOri, reg_savePc]
  rfl

theorem exec_and :
    exec (.and r q) s = .next ((s.fetched (.and r q)).savedResult (regSlot r) (s.reg r &&& s.reg q)) := by
  simp only [exec, execAnd, reg_savePc]
  rfl

theorem exec_or :
    exec (.or r q) s = .next ((s.fetched (.or r q)).savedResult (regSlot r) (s.reg r ||| s.reg q)) := by
  simp only [exec, execOr, reg_savePc]
  rfl

/-- The logic instructions on the register `r`, each with its result. -/
def logicResults : List (Instr × Byte) :=
  [(.andi r imm, s.reg r &&& imm), (.ori r imm, s.reg r ||| imm), (.and r q, s.reg r &&& s.reg q),
    (.or r q, s.reg r ||| s.reg q)]

end

theorem exec_of_mem_logicResults {s : State} {r q : Reg} {imm v : Byte} {i : Instr}
    (h : (i, v) ∈ logicResults s r q imm) :
    ∃ u : State, BytesRead i s u ∧ u.flags = s.flags ∧ exec i s = .next (u.savedResult (regSlot r) v) := by
  simp only [logicResults, List.mem_cons, Prod.mk.injEq, List.not_mem_nil, or_false] at h
  obtain ⟨rfl, rfl⟩ | ⟨rfl, rfl⟩ | ⟨rfl, rfl⟩ | ⟨rfl, rfl⟩ := h
  · exact ⟨_, bytesRead_takeOperand s _ rfl, rfl, exec_andi s r imm⟩
  · exact ⟨_, bytesRead_takeOperand s _ rfl, rfl, exec_ori s r imm⟩
  · exact ⟨_, bytesRead_fetched s rfl, rfl, exec_and s r q⟩
  · exact ⟨_, bytesRead_fetched s rfl, rfl, exec_or s r q⟩

/-- A result to a register between the save and the restore. -/
theorem regWritten_savedResult {i : Instr} {s u : State} (hwf : s.mem.wf = true) (h : BytesRead i s u) (r : Reg)
    (v : Byte) :
    RegWritten i (s.pc + BitVec.ofNat 16 i.bytes) [slotAddr .pl, slotAddr .ph] r v s (u.savedResult (regSlot r) v) :=
  (pcHeld_savePc hwf h).restorePc_result r v

/-- Settles O39: each is its result to the register between the save and the restore. -/
theorem logicWritesTheResult : Obligations.LogicWritesTheResult := by
  intro s r q imm i v hwf hmem next
  obtain ⟨u, hread, hflags, hexec⟩ := exec_of_mem_logicResults (s := s) (r := r) (q := q) (imm := imm) hmem
  obtain ⟨⟨hended, hpc, hsaved, hkept, huart⟩, hreg⟩ := regWritten_savedResult hwf hread r v
  exact ⟨_, hexec, hended, hpc, hreg, rfl, hflags, hsaved, hkept, huart⟩

/-! ## The two halves of the bit move (`45_logic_bits_flags.md` R172, R173) -/

/-- `BMX` before its mask byte: `W` holds the function of the register, and the restored pc is at the mask (R172). -/
def State.maskNext (s : State) (r : Reg) (xsel mask : Byte) : State :=
  ((s.fetched (.bmx r xsel mask)).takeOperand xsel).savedResult .w (aluUnary xsel (s.reg r))

section
variable {s : State} (hwf : s.mem.wf = true) (r : Reg) (xsel mask : Byte)
include hwf

theorem pc_maskNext : (s.maskNext r xsel mask).pc = s.pc + 2 :=
  (pc_savedResult (s := (s.fetched (.bmx r xsel mask)).takeOperand xsel) _ hwf (by decide)).trans
    (pc_incPc_fetched s _)

theorem slot_w_maskNext : (s.maskNext r xsel mask).slot .w = aluUnary xsel (s.reg r) := slot_savedResult_self _ hwf

theorem memoryKept_maskNext : MemoryKept s (s.maskNext r xsel mask) [slotAddr .pl, slotAddr .ph, slotAddr .w] :=
  memoryKept_savedResult (s := (s.fetched (.bmx r xsel mask)).takeOperand xsel) hwf .w _

/-- The mask is the byte that memory holds once `W`, `PL` and `PH` are written (`20_memory.md` R52). -/
theorem exec_bmx_eq_maskNext (hmask : s.readMem (s.pc + 2) = mask) :
    exec (.bmx r xsel mask) s =
      .next ((s.maskNext r xsel mask).takeOperand ((s.maskNext r xsel mask).readMem (s.pc + 2))).endSlot := by
  have hpc := pc_maskNext hwf r xsel mask
  have hlate := lateByte_eq_readMem (s := s.maskNext r xsel mask) (before := s) (v := mask) (by rw [hpc, hmask])
  rw [hpc] at hlate
  rw [← hlate]
  exact exec_bmx r xsel mask s

end

/-- Settles O40: a result to `W` between the save and the restore, then the mask byte to `T`. -/
theorem bitExtract : Obligations.BitExtract := by
  intro img s r xsel mask hwf hmask
  have hpc := pc_maskNext hwf r xsel mask
  have hkept := memoryKept_maskNext hwf r xsel mask
  refine ⟨_, exec_bmx_eq_maskNext hwf r xsel mask hmask, ⟨rfl, rfl, rfl⟩, ?pc, slot_w_maskNext hwf r xsel mask, rfl,
    fun hclear => (hkept _ hclear).trans hmask, pcSaved_restorePc hpc, rfl, hkept, uartKept_refl s⟩
  case pc => rw [pc_endSlot, pc_takeOperand, hpc, BitVec.add_assoc]; rfl

/-- Settles O41: a result to the register between the save and the restore, which leave `W` alone. -/
theorem bitMerge : Obligations.BitMerge := by
  intro s r hwf v
  obtain ⟨⟨hended, hpc, hsaved, hkept, huart⟩, hreg⟩ :=
    regWritten_savedResult hwf (bytesRead_fetched s (i := .bmw r) rfl) r v
  exact ⟨_, exec_bmw r s, hended, hpc, hreg, rfl, hkept _ (by simp), hsaved, rfl, hkept, huart⟩

/-! ## A slot from one of its microsteps on (`41_cycle.md` R118, R119) -/

section
variable (img : BootImage) {s : State} {n : Nat} {m : MicroOp}

/-- The slot goes on after a row that accesses no port, loads no opcode and does not end it. -/
theorem runSlot_atRow (hm : ucodeRow s.flags (BitVec.ofNat 4 (n + 1)) s.ir = m) (hn : n < 14)
    (hq : m.isQuiet = true) : runSlot img (s.atRow n) = runSlot img ((s.runRow img m).atRow (n + 1)) := by
  obtain ⟨hsource, hio, -, hrst⟩ := MicroOp.isQuiet_iff.1 hq
  have hstep : ((s.runRow img m).atRow (n + 1)).ustep.toNat = n + 2 := Nat.mod_eq_of_lt (by omega)
  rw [runSlot_eq_outcome, slotEnd, slotLoop_row img 15 0 _ hm hsource hio hrst (atRow_ne_wrap s hn),
    afterRow_atRow img s n hrst, runSlot_eq_outcome, slotEnd]
  exact outcome_slotLoop_eq img 15 16 1 0 _ (by omega) (by omega)

theorem runSlot_atRow_rstOp (hm : ucodeRow s.flags (BitVec.ofNat 4 (n + 1)) s.ir = rstOp) :
    runSlot img (s.atRow n) = .next s.endPlain := by
  rw [runSlot_eq_outcome, slotEnd, slotLoop_rst img 15 0 _ (m := rstOp) hm nofun rfl, afterRow_atRow_rst img s n rfl,
    runRow_rst]
  rfl

theorem runSlot_atRow_wrap (hm : ucodeRow s.flags 15 s.ir = idleOp) : runSlot img (s.atRow 14) = .next s.endPlain := by
  rw [runSlot_eq_outcome, slotEnd, slotLoop_wrap img 15 0 _ (m := idleOp) hm nofun nofun rfl, afterRow_idle]
  simp [SlotEnd.outcome, State.atRow, State.endPlain]

/-- A slot without further rows, in either regime, idles to the wrap of the counter. -/
theorem runSlot_of_idle (hidle : ∀ k : Nibble, n + 1 ≤ k.toNat → ucodeRow s.flags k s.ir = idleOp) (hn : n ≤ 14) :
    runSlot img (s.atRow n) = .next s.endPlain := by
  induction hn using Nat.decreasingInduction with
  | self => exact runSlot_atRow_wrap img (hidle 15 le_rfl)
  | of_succ n hn ih =>
    have hrow := hidle (BitVec.ofNat 4 (n + 1)) (Nat.le_of_eq (Nat.mod_eq_of_lt (by omega)).symm)
    rw [runSlot_atRow img hrow hn (by decide), runRow_idle]
    exact ih fun k hk => hidle k (by omega)

end

/-! ## The phases of the power-on table (`70_reset_and_hazards.md` R233) -/

/-- The flags select phase F. -/
def SelectsFinish (f : Nibble) : Prop := flagI f = false ∧ flagZ f = true ∧ flagS f = true

section
variable {f : Nibble} (k : Nibble) (ir : Byte)

theorem ucodeRow_reset (hi : flagI f = false) (hz : flagZ f = false) : ucodeRow f k ir = powerOnReset k := by
  simp [ucodeRow, powerOn, hi, hz]

theorem ucodeRow_bootstrap (hi : flagI f = false) (hz : flagZ f = true) (hs : flagS f = false) :
    ucodeRow f k ir = powerOnBootstrap k := by
  simp [ucodeRow, powerOn, hi, hz, hs]

theorem ucodeRow_finish (h : SelectsFinish f) : ucodeRow f k ir = powerOnFinish k := by
  obtain ⟨hi, hz, hs⟩ := h
  simp [ucodeRow, powerOn, hi, hz, hs]

end

theorem powerOnReset_of_le : ∀ k : Nibble, 4 ≤ k.toNat → powerOnReset k = idleOp := by decide

section
variable (img : BootImage) (s : State)

theorem runRow_powerOnReset_three :
    (s.onAlu .passl).runRow img (powerOnReset 3) = (s.setFlags (busFlags s.al)).onAlu .boot := by
  rw [show powerOnReset 3 = row .alu [.flags] (toAlu .boot) from rfl, runRow_toAlu, busValue_alu_onAlu]
  rfl

theorem runRow_powerOnFinish_three :
    (s.onAlu .passl).runRow img (powerOnFinish 3) = (s.setPc 0x00 s.al).onAlu .passl := by
  rw [show powerOnFinish 3 = row .const [.ah] (toAlu .passl) from rfl, runRow_toAlu, busValue_const_onAlu]
  rfl

theorem runRow_powerOnFinish_four (op : AluOp) :
    (s.onAlu op).runRow img (powerOnFinish 4) = (s.setPc s.ah op.code).onAlu .addf := by
  rw [show powerOnFinish 4 = row .const [.al] (toAlu .addf) from rfl, runRow_toAlu, busValue_const_onAlu]
  rfl

theorem runRow_powerOnFinish_five :
    (s.onAlu .addf).runRow img (powerOnFinish 5) = (s.setFlags (addFlags s.ah s.al)).onAlu .passl := by
  rw [show powerOnFinish 5 = row .alu [.flags] (toAlu .passl) from rfl, runRow_toAlu, busValue_alu_onAlu, load_flags,
    AluOp.eval, busFlags_aluAddf]
  rfl

end

theorem decodeOpcode_stf (r : Reg) : decodeOpcode (Instr.stf r).opcode = .stf r := by cases r <;> rfl

/-- In the normal regime an `STF` has no row past microstep 3. -/
theorem ucodeRow_stf_of_le {f k : Nibble} (r : Reg) (hi : flagI f = true) (hk : 4 ≤ k.toNat) :
    ucodeRow f k (Instr.stf r).opcode = idleOp := by
  have hne : k ≠ 0 := by
    rintro rfl
    cases hk
  rw [ucodeRow, if_pos hi, if_neg hne, decodeOpcode_stf]
  exact List.getD_eq_default _ _ (by change 3 ≤ k.toNat - 1; omega)

/-! ## An `STF` that clears `I` (`45_logic_bits_flags.md` R177, `70_reset_and_hazards.md` R245) -/

section
variable (img : BootImage) {s : State} {r : Reg}

/-- Phase B ends the slot at microstep 4. -/
theorem runSlot_bootstrap_four (hi : flagI s.flags = false) (hz : flagZ s.flags = true) (hs : flagS s.flags = false) :
    runSlot img (s.atRow 3) = .next s.endPlain :=
  runSlot_atRow_rstOp img (ucodeRow_bootstrap 4 s.ir hi hz hs)

theorem runSlot_bootstrap_three (hi : flagI s.flags = false) (hz : flagZ s.flags = true)
    (hs : flagS s.flags = false) : runSlot img (s.atRow 2) = .next s.endPlain := by
  rw [runSlot_atRow img (ucodeRow_bootstrap 3 s.ir hi hz hs) (by decide) (by decide)]
  exact runSlot_bootstrap_four img hi hz hs

/-- Phase F from microstep 4 on: `AL` takes the select code, `FLAGS` the flags of the sum, whose `I` = 1 hands over to
the normal regime. -/
theorem runSlot_finish_four (op : AluOp) (hir : s.ir = (Instr.stf r).opcode) (h : SelectsFinish s.flags) :
    runSlot img ((s.onAlu op).atRow 3) = .next ((s.setPc s.ah op.code).setFlags (addFlags s.ah op.code)).endSlot := by
  rw [runSlot_atRow img (s := s.onAlu op) (ucodeRow_finish 4 s.ir h) (by decide) (by decide),
    runRow_powerOnFinish_four,
    runSlot_atRow img (s := (s.setPc s.ah op.code).onAlu .addf) (ucodeRow_finish 5 s.ir h) (by decide) (by decide),
    runRow_powerOnFinish_five]
  refine runSlot_of_idle img (fun k hk => ?_) (by decide)
  exact (congrArg _ hir).trans (ucodeRow_stf_of_le r (flagI_addFlags _ _) (by omega))

/-- Phase F from microstep 3 on starts with `AH` = 0. -/
theorem runSlot_finish_three (hir : s.ir = (Instr.stf r).opcode) (h : SelectsFinish s.flags) :
    runSlot img ((s.onAlu .passl).atRow 2) = .next ((s.setPc 0x00 0x00).setFlags 0xC).endSlot := by
  have hsum : addFlags 0x00 0x00 = 0xC := by decide
  rw [runSlot_atRow img (s := s.onAlu .passl) (ucodeRow_finish 3 s.ir h) (by decide) (by decide),
    runRow_powerOnFinish_three, ← hsum]
  exact runSlot_finish_four img (s := s.setPc 0x00 s.al) .passl hir h

/-- Phase R loads `FLAGS` from `AL` at microstep 3. -/
theorem runSlot_reset_three (hi : flagI s.flags = false) (hz : flagZ s.flags = false) :
    runSlot img ((s.onAlu .passl).atRow 2) =
      runSlot img (((s.setFlags (busFlags s.al)).onAlu .boot).atRow 3) := by
  rw [runSlot_atRow img (s := s.onAlu .passl) (ucodeRow_reset 3 s.ir hi hz) (by decide) (by decide),
    runRow_powerOnReset_three]

/-- From microstep 4 on only phase F changes anything but `STEP`. -/
theorem runSlot_four_of_not_finish (hir : s.ir = (Instr.stf r).opcode) (h : ¬SelectsFinish s.flags) :
    runSlot img (s.atRow 3) = .next s.endPlain := by
  cases hi : flagI s.flags with
  | true => exact runSlot_of_idle img (fun k hk => hir ▸ ucodeRow_stf_of_le r hi hk) (by decide)
  | false =>
    cases hz : flagZ s.flags with
    | false =>
      exact runSlot_of_idle img (fun k hk => (ucodeRow_reset k _ hi hz).trans (powerOnReset_of_le k hk)) (by decide)
    | true =>
      cases hs : flagS s.flags with
      | false => exact runSlot_bootstrap_four img hi hz hs
      | true => exact absurd ⟨hi, hz, hs⟩ h

end

/-- The slot of `STF r` from `s` has ended in `t` with these flags, this pc and this select; `T`, memory and the UART
are as before. -/
structure StfEnded (r : Reg) (f : Nibble) (pc : Addr) (bsel : Nibble) (s t : State) : Prop where
  ir : t.ir = (Instr.stf r).opcode
  ustep : t.ustep = 0
  temp : t.t = s.t
  kept : MemoryKept s t []
  uart : UartKept s t
  flags : t.flags = f
  pc : t.pc = pc
  bsel : t.bsel = bsel

/-- `STF` once it has loaded `FLAGS` from the register (R177). -/
def State.flagsTaken (s : State) (r : Reg) : State := (s.fetched (.stf r)).setFlags (busFlags (s.reg r))

section
variable {s : State} {r : Reg}

theorem exec_stf_of_clear (h : (s.reg r).getLsbD 3 = false) :
    exec (.stf r) s = runSlot Config.bootImage (((s.flagsTaken r).onAlu .passl).atRow 2) := by
  rw [exec_stf, if_neg (by rw [flagI_busFlags, h]; decide)]
  rfl

theorem pc_flagsTaken : (s.flagsTaken r).pc = s.pc + 1 := pc_fetched s _

theorem al_flagsTaken : (s.flagsTaken r).al = loByte (s.pc + 1) := by rw [← pc_flagsTaken (r := r), loByte_pc]

theorem ah_flagsTaken : (s.flagsTaken r).ah = hiByte (s.pc + 1) := by rw [← pc_flagsTaken (r := r), hiByte_pc]

variable (hclear : (s.reg r).getLsbD 3 = false)
include hclear

theorem flagI_flagsTaken : flagI (s.flagsTaken r).flags = false := (flagI_busFlags _).trans hclear

theorem exec_stf_bootstrap (hz : flagZ (busFlags (s.reg r)) = true) (hs : flagS (busFlags (s.reg r)) = false) :
    ∃ t : State, exec (.stf r) s = .next t ∧ StfEnded r (busFlags (s.reg r)) (s.pc + 1) 0 s t := by
  rw [exec_stf_of_clear hclear,
    runSlot_bootstrap_three _ (s := (s.flagsTaken r).onAlu .passl) (flagI_flagsTaken hclear) hz hs]
  exact ⟨_, rfl, rfl, rfl, rfl, memoryKept_of_mem_eq rfl _, uartKept_refl s, rfl, pc_flagsTaken, rfl⟩

theorem exec_stf_finish (hz : flagZ (busFlags (s.reg r)) = true) (hs : flagS (busFlags (s.reg r)) = true) :
    ∃ t : State, exec (.stf r) s = .next t ∧ StfEnded r 0xC 0x0000 0 s t := by
  rw [exec_stf_of_clear hclear, runSlot_finish_three _ (r := r) rfl ⟨flagI_flagsTaken hclear, hz, hs⟩]
  have hpc : joinBytes 0x00 0x00 = 0x0000 := by decide
  exact ⟨_, rfl, rfl, rfl, rfl, memoryKept_of_mem_eq rfl _, uartKept_refl s, rfl, hpc, rfl⟩

/-- Phase R: the low byte of the pc gives the flags with which the slot goes on. -/
theorem exec_stf_reset (hz : flagZ (busFlags (s.reg r)) = false) :
    exec (.stf r) s = runSlot Config.bootImage
      ((((s.flagsTaken r).setFlags (busFlags (loByte (s.pc + 1)))).onAlu .boot).atRow 3) := by
  rw [exec_stf_of_clear hclear, runSlot_reset_three _ (flagI_flagsTaken hclear) hz, al_flagsTaken]

theorem exec_stf_reset_idle (hz : flagZ (busFlags (s.reg r)) = false)
    (hg : ¬SelectsFinish (busFlags (loByte (s.pc + 1)))) :
    ∃ t : State, exec (.stf r) s = .next t ∧ StfEnded r (busFlags (loByte (s.pc + 1))) (s.pc + 1) 7 s t := by
  rw [exec_stf_reset hclear hz, runSlot_four_of_not_finish _
    (s := ((s.flagsTaken r).setFlags (busFlags (loByte (s.pc + 1)))).onAlu .boot) (r := r) rfl hg]
  exact ⟨_, rfl, rfl, rfl, rfl, memoryKept_of_mem_eq rfl _, uartKept_refl s, rfl, pc_flagsTaken, rfl⟩

theorem exec_stf_reset_finish (hz : flagZ (busFlags (s.reg r)) = false)
    (hg : SelectsFinish (busFlags (loByte (s.pc + 1)))) :
    ∃ t : State, exec (.stf r) s = .next t ∧
      StfEnded r (addFlags (hiByte (s.pc + 1)) 0x07) (joinBytes (hiByte (s.pc + 1)) 0x07) 0 s t := by
  rw [exec_stf_reset hclear hz, runSlot_finish_four _ (s := (s.flagsTaken r).setFlags (busFlags (loByte (s.pc + 1))))
    (r := r) .boot rfl hg, ← ah_flagsTaken (r := r)]
  exact ⟨_, rfl, rfl, rfl, rfl, memoryKept_of_mem_eq rfl _, uartKept_refl s, rfl, rfl, rfl⟩

end

/-- Settles O43: the phase that the value selects, and for phase R the one that the pc selects after it. -/
theorem stfClearingInit : Obligations.StfClearingInit := by
  intro s r hclear f next g finish
  cases hz : f.getLsbD 2 with
  | true =>
    cases hs : f.getLsbD 1 with
    | false =>
      obtain ⟨t, hexec, h⟩ := exec_stf_bootstrap hclear hz hs
      exact ⟨t, hexec, h.ir, h.ustep, h.temp, h.kept, h.uart, fun _ _ => ⟨h.flags, h.pc, h.bsel⟩, nofun, nofun, nofun⟩
    | true =>
      obtain ⟨t, hexec, h⟩ := exec_stf_finish hclear hz hs
      exact ⟨t, hexec, h.ir, h.ustep, h.temp, h.kept, h.uart, nofun, fun _ _ => ⟨h.flags, h.pc, h.bsel⟩, nofun, nofun⟩
  | false =>
    by_cases hg : finish
    · obtain ⟨t, hexec, h⟩ := exec_stf_reset_finish hclear hz hg
      refine ⟨t, hexec, h.ir, h.ustep, h.temp, h.kept, h.uart, nofun, nofun, fun _ hn => absurd hg hn, fun _ _ => ?_⟩
      exact ⟨h.flags ▸ flagsOfSum_addFlags _ _, h.pc, h.bsel⟩
    · obtain ⟨t, hexec, h⟩ := exec_stf_reset_idle hclear hz hg
      exact ⟨t, hexec, h.ir, h.ustep, h.temp, h.kept, h.uart, nofun, nofun, fun _ _ => ⟨h.flags, h.pc, h.bsel⟩,
        fun _ hn => absurd hn hg⟩

end Sys2Proof.Machine

/-! SUPPORT. Jumps, stack, call and return: what each of them changes and leaves (`46_stack_and_control.md` R179 to
R193). -/

namespace Sys2Proof.Machine

/-! ## Jumps (`46_stack_and_control.md` R189, R190) -/

/-- The eight jumps to `{hi, lo}`, each with its condition on the flags. -/
def jumps (f : Nibble) (lo hi : Byte) : List (Instr × Bool) :=
  [(.jmp lo hi, condAlways f), (.jz lo hi, condZero f), (.jnz lo hi, condNotZero f), (.jc lo hi, condCarry f),
    (.jnc lo hi, condNotCarry f), (.js lo hi, condSign f), (.jbe lo hi, condBelowOrEqual f),
    (.jae lo hi, condAboveOrEqual f)]

theorem exec_of_mem_jumps {s : State} {lo hi : Byte} {i : Instr} {taken : Bool} (h : (i, taken) ∈ jumps s.flags lo hi) :
    exec i s = .next ((s.fetched i).jump taken lo hi) := by
  simp only [jumps, List.mem_cons, Prod.mk.injEq, List.not_mem_nil, or_false] at h
  obtain ⟨rfl, rfl⟩ | ⟨rfl, rfl⟩ | ⟨rfl, rfl⟩ | ⟨rfl, rfl⟩ | ⟨rfl, rfl⟩ | ⟨rfl, rfl⟩ | ⟨rfl, rfl⟩ | ⟨rfl, rfl⟩ := h
  all_goals rfl

theorem pc_jump_fetched (s : State) (i : Instr) (taken : Bool) (lo hi : Byte) :
    ((s.fetched i).jump taken lo hi).pc = if taken then joinBytes hi lo else s.pc + 3 := by
  rw [pc_jump, pc_fetched, BitVec.add_assoc, BitVec.add_assoc]
  rfl

/-- Settles O28: each is its fetch, then the jump on its condition, which changes the pc and `T` only. -/
theorem jumpsFollowTheirCondition : Obligations.JumpsFollowTheirCondition := by
  intro s lo hi i taken c sg z hmem
  refine ⟨_, exec_of_mem_jumps hmem, pc_jump_fetched s i taken lo hi, t_jump _ taken lo hi, ?_⟩
  cases taken with
  | true => exact ⟨rfl, rfl, rfl, rfl, memoryKept_of_mem_eq rfl _, uartKept_refl s⟩
  | false => exact ⟨rfl, rfl, rfl, rfl, memoryKept_of_mem_eq rfl _, uartKept_refl s⟩

theorem UartKept.trans {s u t : State} (h : UartKept s u) (k : UartKept u t) : UartKept s t := by
  obtain ⟨⟨ho, hb, hn, hr, hd⟩, hrb, hrn, hri, hrp⟩ := k
  unfold UartKept TransmitKept ReceiveKept
  rw [ho, hb, hn, hr, hd, hrb, hrn, hri, hrp]
  exact h

/-! ## A push (`46_stack_and_control.md` R179, `70_reset_and_hazards.md` R249) -/

theorem add_ones_eq_sub_one (v : Byte) : v + 0xFF = v - 1 := by bv_omega

theorem uartKept_pushByte (u : State) (v : Byte) : UartKept u (u.pushByte v) := by
  simp [UartKept, TransmitKept, ReceiveKept]

/-- From `u` to `t` the byte `v` is pushed at the stack pointer `sp`. The lowered stack pointer wins over a byte pushed
onto the `SP` slot; any other register that the push hits takes the byte. -/
structure BytePushed (sp v : Byte) (u t : State) : Prop where
  lowered : t.slot .sp = sp - 1
  temp : t.t = sp - 1
  stored : joinBytes 0xFF sp ≠ slotAddr .sp → t.readMem (joinBytes 0xFF sp) = v
  slot : ∀ x : Slot, x ≠ .sp → t.slot x = if joinBytes 0xFF sp = slotAddr x then v else u.slot x
  ir : t.ir = u.ir
  flags : t.flags = u.flags
  kept : MemoryKept u t [joinBytes 0xFF sp, slotAddr .sp]
  uart : UartKept u t

theorem bytePushed_pushByte {u : State} {sp : Byte} (v : Byte) (hwf : u.mem.wf = true) (hsp : u.slot .sp = sp) :
    BytePushed sp v u (u.pushByte v) := by
  subst hsp
  have hread := readMem_pushByte hwf v
  refine ⟨?lowered, add_ones_eq_sub_one _, fun h => ?stored, fun x hx => ?slot,
    State.pushByte_ir u v, State.pushByte_flags u v, fun a ha => ?kept, uartKept_pushByte u v⟩
  case lowered => rw [State.slot, hread, if_pos rfl, add_ones_eq_sub_one]
  case stored => rw [hread, if_neg h]; exact if_pos rfl
  case slot =>
    rw [State.slot, hread, if_neg (mt slotAddr_inj.1 hx)]
    exact if_congr eq_comm rfl rfl
  case kept =>
    simp only [List.mem_cons, List.not_mem_nil, or_false, not_or] at ha
    obtain ⟨hstack, hslot⟩ := ha
    rw [hread, if_neg hslot]
    exact if_neg hstack

/-! ## `PUSH` and `PSHI` (`46_stack_and_control.md` R180, R182) -/

/-- The two pushes, each with its byte. -/
def pushes (s : State) (r : Reg) (imm : Byte) : List (Instr × Byte) := [(.push r, s.reg r), (.pshi imm, imm)]

theorem exec_of_mem_pushes {s : State} {r : Reg} {imm v : Byte} {i : Instr} (h : (i, v) ∈ pushes s r imm) :
    ∃ u : State, BytesRead i s u ∧ u.savePc.flags = s.flags ∧ exec i s = .next (u.savePc.pushByte v).restorePc := by
  simp only [pushes, List.mem_cons, Prod.mk.injEq, List.not_mem_nil, or_false] at h
  obtain ⟨rfl, rfl⟩ | ⟨rfl, rfl⟩ := h
  · exact ⟨_, bytesRead_fetched s rfl, rfl, rfl⟩
  · exact ⟨_, bytesRead_takeOperand s _ rfl, rfl, rfl⟩

/-- Until something writes `SP`, it is what it was at the start of the slot. -/
theorem PcHeld.slot_sp {i : Instr} {next : Addr} {s u : State}
    (h : PcHeld i next [slotAddr .pl, slotAddr .ph] s u) : u.slot .sp = s.slot .sp :=
  h.kept _ (by decide)

/-- Settles O44: a push between the save and the restore of the pc. -/
theorem pushStoresAndLowersSp : Obligations.PushStoresAndLowersSp := by
  intro s r imm i v hwf hmem next sp a
  obtain ⟨u, hread, hflags, hexec⟩ := exec_of_mem_pushes (s := s) (r := r) (imm := imm) hmem
  have hheld := pcHeld_savePc hwf hread
  obtain ⟨hlow, hhigh⟩ := hheld.saved
  have hpushed := bytePushed_pushByte v hheld.wf hheld.slot_sp
  generalize u.savePc.pushByte v = w at hexec hpushed
  have hpl := hpushed.slot .pl (by decide)
  have hph := hpushed.slot .ph (by decide)
  rw [hlow] at hpl
  rw [hhigh] at hph
  exact ⟨_, hexec, ⟨hpushed.ir.trans hheld.ir, rfl, rfl⟩, hpushed.lowered, hpushed.temp, hpushed.stored, hpl, hph, rfl,
    hpushed.flags.trans hflags, hheld.kept.trans hpushed.kept, hheld.uart.trans hpushed.uart⟩

/-! ## A pop (`46_stack_and_control.md` R179, R181) -/

/-- The byte popped is `SP` itself where the stack address is the `SP` slot. -/
theorem stackTop_raiseSp {u : State} (hwf : u.mem.wf = true) :
    u.raiseSp.stackTop = popRead u.readMem (u.slot .sp + 1) (stackAddr (u.slot .sp + 1)) := by
  rw [State.stackTop, slot_sp_raiseSp hwf]
  exact readMem_raiseSp hwf _

theorem slot_raiseSp_of_ne (u : State) {x : Slot} (h : x ≠ .sp) : u.raiseSp.slot x = u.slot x :=
  slot_writeMem_slotAddr_ne _ _ h

theorem PcHeld.result {i : Instr} {next : Addr} {written : List Addr} {s u : State} (h : PcHeld i next written s u)
    {x : Slot} (v : Byte) (hpl : .pl ≠ x) (hph : .ph ≠ x) :
    PcHeld i next (written ++ [slotAddr x]) s (u.result x v) :=
  (h.setT v).setSlot v hpl hph

/-! ## `POP` and `RETL` (`46_stack_and_control.md` R181, R187) -/

/-- The two pops, each with the slot that takes the byte. -/
def pops (r : Reg) : List (Instr × Slot) := [(.pop r, regSlot r), (.retl, .w)]

theorem exec_of_mem_pops {r : Reg} {i : Instr} {x : Slot} (s : State) (h : (i, x) ∈ pops r) :
    BytesRead i s (s.fetched i) ∧ i.bytes = 1 ∧ (.pl ≠ x ∧ .ph ≠ x ∧ .sp ≠ x) ∧
      exec i s =
        .next ((s.fetched i).savePc.raiseSp.result x (s.fetched i).savePc.raiseSp.stackTop).restorePc := by
  simp only [pops, List.mem_cons, Prod.mk.injEq, List.not_mem_nil, or_false] at h
  obtain ⟨rfl, rfl⟩ | ⟨rfl, rfl⟩ := h
  · obtain ⟨hpl, hph, hsp, -⟩ := ne_regSlot r
    exact ⟨bytesRead_fetched s rfl, rfl, ⟨hpl, hph, hsp⟩, rfl⟩
  · exact ⟨bytesRead_fetched s rfl, rfl, by decide, rfl⟩

/-- Settles O45: a pop between the save and the restore of the pc. -/
theorem popRaisesSpAndLoads : Obligations.PopRaisesSpAndLoads := by
  intro s r i x hwf hmem next sp v
  obtain ⟨hread, hbytes, ⟨hpl, hph, hne⟩, hexec⟩ := exec_of_mem_pops s hmem
  have hheld := pcHeld_savePc hwf hread
  rw [hbytes] at hheld
  have hsp : (s.fetched i).savePc.slot .sp + 1 = sp := congrArg (· + 1) hheld.slot_sp
  have htop : (s.fetched i).savePc.raiseSp.stackTop = v := by
    rw [stackTop_raiseSp hheld.wf, hsp, popRead, readMem_savePc_eq_readSaved (s := s.fetched i) hwf,
      readSaved_fetched, pc_fetched]
    rfl
  rw [htop] at hexec
  have hraised : PcHeld i next [slotAddr .pl, slotAddr .ph, slotAddr .sp] s (s.fetched i).savePc.raiseSp :=
    hheld.result _ (by decide) (by decide)
  obtain ⟨hended, hpc, hsaved, hkept, huart⟩ := (hraised.result v hpl hph).restorePc
  have hslot := slot_result hraised.wf x
  exact ⟨_, hexec, hended, hpc, ((hslot .sp v).trans (if_neg hne)).trans ((slot_sp_raiseSp hheld.wf).trans hsp),
    (hslot x v).trans (if_pos rfl), rfl, hsaved, rfl, hkept, huart⟩

/-! ## `RETH` (`46_stack_and_control.md` R188) -/

/-- Settles O47: the fetch, then a pop to the high byte of the pc beside `W`. -/
theorem returnJumps : Obligations.ReturnJumps := by
  intro s hwf sp v
  have hwf' : (s.fetched .reth).mem.wf = true := hwf
  have htop : (s.fetched .reth).raiseSp.stackTop = v := stackTop_raiseSp hwf'
  have hw : (s.fetched .reth).raiseSp.slot .w = s.slot .w := slot_raiseSp_of_ne _ (by decide)
  exact ⟨_, rfl, ⟨rfl, rfl, rfl⟩, congrArg₂ joinBytes htop hw, slot_sp_raiseSp hwf', rfl, rfl,
    memoryKept_result _ .sp _, uartKept_refl s⟩

/-! ## `CALJ` (`46_stack_and_control.md` R186) -/

/-- `CALJ` before its push: the target stands in `W` and `PH`. -/
def State.targetTaken (s : State) (lo hi imm : Byte) : State :=
  (s.addressTaken (.calj lo hi imm) lo hi).setSlot .ph (s.addressTaken (.calj lo hi imm) lo hi).t

/-- The jump to `{PH, W}`, whatever they hold by then. -/
def State.jumpToTarget (s : State) : State := (s.setPc (s.slot .ph) (s.slot .w)).endSlot

theorem exec_calj (s : State) (lo hi imm : Byte) :
    exec (.calj lo hi imm) s =
      .next ((s.targetTaken lo hi imm).pushByte ((s.targetTaken lo hi imm).lateByte s imm)).jumpToTarget := rfl

theorem pc_jumpToTarget (s : State) : s.jumpToTarget.pc = joinBytes (s.slot .ph) (s.slot .w) := rfl

section
variable (s : State) (lo hi imm : Byte)

theorem pc_targetTaken : (s.targetTaken lo hi imm).pc = s.pc + 3 := pc_addressTaken _ lo hi

theorem memoryKept_targetTaken : MemoryKept s (s.targetTaken lo hi imm) [slotAddr .w, slotAddr .ph] :=
  (memoryKept_addressTaken _ lo hi).trans (memoryKept_writeMem _ (slotAddr .ph) _)

theorem uartKept_targetTaken : UartKept s (s.targetTaken lo hi imm) := uartKept_refl s

variable {s hi imm} (hwf : s.mem.wf = true)
include hwf

theorem wf_targetTaken : (s.targetTaken lo hi imm).mem.wf = true := wf_setSlot (wf_addressTaken _ lo hi hwf) _ _

variable (hhi : s.readMem (s.pc + 2) = hi)
include hhi

theorem readMem_targetTaken (a : Addr) :
    (s.targetTaken lo hi imm).readMem a =
      if a = slotAddr .ph then (if s.pc + 2 = slotAddr .w then lo else hi)
      else if a = slotAddr .w then lo else s.readMem a := by
  rw [State.targetTaken, readMem_setSlot (wf_addressTaken _ lo hi hwf), readMem_addressTaken _ lo hi hwf,
    t_addressTaken _ lo hi hwf hhi]

/-- The fourth byte is read after `W` and `PH` are written (`20_memory.md` R52). -/
theorem lateByte_targetTaken (himm : s.readMem (s.pc + 3) = imm) :
    (s.targetTaken lo hi imm).lateByte s imm =
      if s.pc + 3 = slotAddr .w then lo
      else if s.pc + 3 = slotAddr .ph then (if s.pc + 2 = slotAddr .w then lo else hi) else imm := by
  have hne : slotAddr .w ≠ slotAddr .ph := by decide
  rw [lateByte_eq_readMem (by rw [pc_targetTaken, himm]), pc_targetTaken, readMem_targetTaken lo hwf hhi, himm]
  by_cases hw : s.pc + 3 = slotAddr .w
  · rw [if_neg (hw ▸ hne), if_pos hw, if_pos hw]
  · rw [if_neg hw, if_neg hw]

end

/-- Settles O46: the target to `W` and `PH`, a push, then the jump to what they hold. -/
theorem callPushesAndJumps : Obligations.CallPushesAndJumps := by
  intro s lo hi imm hwf hhi himm hi' v sp a
  have hlate : (s.targetTaken lo hi imm).lateByte s imm = v := lateByte_targetTaken lo hwf hhi himm
  have hexec := exec_calj s lo hi imm
  rw [hlate] at hexec
  have hwf' := wf_targetTaken lo (hi := hi) (imm := imm) hwf
  have hread := readMem_targetTaken lo (imm := imm) hwf hhi
  have hsp : (s.targetTaken lo hi imm).slot .sp = sp := memoryKept_targetTaken s lo hi imm _ (by decide)
  have hw : (s.targetTaken lo hi imm).slot .w = lo := by rw [State.slot, hread, if_neg (by decide), if_pos rfl]
  have hph : (s.targetTaken lo hi imm).slot .ph = hi' := by rw [State.slot, hread, if_pos rfl]
  have hpushed := bytePushed_pushByte v hwf' hsp
  generalize (s.targetTaken lo hi imm).pushByte v = u at hexec hpushed
  have hw' := hpushed.slot .w (by decide)
  have hph' := hpushed.slot .ph (by decide)
  rw [hw] at hw'
  rw [hph] at hph'
  exact ⟨_, hexec, ⟨hpushed.ir, rfl, rfl⟩, hpushed.lowered, hpushed.temp, hpushed.stored, hw', hph',
    pc_jumpToTarget u, hpushed.flags, (memoryKept_targetTaken s lo hi imm).trans hpushed.kept,
    (uartKept_targetTaken s lo hi imm).trans hpushed.uart⟩


/-! ## The call protocol (`46_stack_and_control.md` R193) -/

/-- A stack pointer that names no register leaves the register page alone. -/
theorem joinBytes_ne_slotAddr {sp : Byte} (h : sp.toNat < 0xF0 ∨ 0xF8 ≤ sp.toNat) (x : Slot) :
    joinBytes 0xFF sp ≠ slotAddr x := by
  intro e
  have hlow : sp = loByte (slotAddr x) := by rw [← e, loByte_joinBytes]
  have hpage : 0xF0 ≤ (loByte (slotAddr x)).toNat ∧ (loByte (slotAddr x)).toNat < 0xF8 := by cases x <;> decide
  rw [hlow] at h
  omega

/-- Every instruction other than `STF` keeps the canonical form of memory. -/
theorem slotInvariant_wf : SlotInvariant (fun s => s.mem.wf = true) where
  loadIr _ h := h
  setPc _ _ h := h
  setT _ h := h
  writeMem a v h := wf_writeMem h a v
  setFlags _ h := h
  poll {s} h := by
    have hmem : s.port3Polled.mem = s.mem := (congrArg State.mem (port3Polled_frame s) :)
    exact hmem ▸ h
  port3Write {s} v h := by
    have hmem : (s.port3Write v).mem = s.mem := (congrArg State.mem (port3Write_frame s v) :)
    exact hmem ▸ h
  endPlain h := h
  endSlot h := h

section
variable {s t : State} (hwf : s.mem.wf = true)
include hwf

/-- `PSHI` with a stack clear of the register page. -/
theorem pshi_of_clear {v : Byte} (hstack : ∀ x, joinBytes 0xFF (s.slot .sp) ≠ slotAddr x)
    (h : exec (.pshi v) s = .next t) :
    t.pc = s.pc + 2 ∧ t.slot .sp = s.slot .sp - 1 ∧ t.readMem (joinBytes 0xFF (s.slot .sp)) = v ∧
      MemoryKept s t [slotAddr .pl, slotAddr .ph, joinBytes 0xFF (s.slot .sp), slotAddr .sp] := by
  obtain ⟨t', h', -, hsp, -, hstored, hpl, hph, hpc, -, hkept, -⟩ :=
    pushStoresAndLowersSp s .a v (.pshi v) v hwf (by simp)
  obtain rfl := Host.Outcome.next.inj (h'.symm.trans h)
  rw [if_neg (hstack .pl)] at hpl
  rw [if_neg (hstack .ph)] at hph
  rw [hpl, hph, joinBytes_hiByte_loByte] at hpc
  exact ⟨hpc, hsp, hstored (hstack .sp), hkept⟩

/-- `CALJ` with its code bytes and a stack clear of the register page. -/
theorem calj_of_clear {lo hi imm : Byte} (hstack : ∀ x, joinBytes 0xFF (s.slot .sp) ≠ slotAddr x)
    (hhi : s.readMem (s.pc + 2) = hi) (himm : s.readMem (s.pc + 3) = imm) (hhiW : s.pc + 2 ≠ slotAddr .w)
    (himmW : s.pc + 3 ≠ slotAddr .w) (himmPh : s.pc + 3 ≠ slotAddr .ph) (h : exec (.calj lo hi imm) s = .next t) :
    t.pc = joinBytes hi lo ∧ t.slot .sp = s.slot .sp - 1 ∧ t.readMem (joinBytes 0xFF (s.slot .sp)) = imm ∧
      MemoryKept s t [slotAddr .w, slotAddr .ph, joinBytes 0xFF (s.slot .sp), slotAddr .sp] := by
  obtain ⟨t', h', -, hsp, -, hstored, hw, hph, hpc, -, hkept, -⟩ := callPushesAndJumps s lo hi imm hwf hhi himm
  obtain rfl := Host.Outcome.next.inj (h'.symm.trans h)
  rw [if_neg (hstack .w)] at hw
  rw [if_neg (hstack .ph), if_neg hhiW] at hph
  rw [if_neg himmW, if_neg himmPh] at hstored
  rw [hw, hph] at hpc
  exact ⟨hpc, hsp, hstored (hstack .sp), hkept⟩

/-- `RETL` with a stack clear of the register page. -/
theorem retl_of_clear (hstack : ∀ x, joinBytes 0xFF (s.slot .sp + 1) ≠ slotAddr x) (h : exec .retl s = .next t) :
    t.slot .sp = s.slot .sp + 1 ∧ t.slot .w = s.readMem (joinBytes 0xFF (s.slot .sp + 1)) ∧
      MemoryKept s t [slotAddr .pl, slotAddr .ph, slotAddr .sp, slotAddr .w] := by
  obtain ⟨t', h', -, -, hsp, hw, -, -, -, hkept, -⟩ := popRaisesSpAndLoads s .a .retl .w hwf (by simp)
  obtain rfl := Host.Outcome.next.inj (h'.symm.trans h)
  rw [popRead, if_neg (hstack .sp), readSaved_of_ne _ _ (hstack .pl) (hstack .ph)] at hw
  exact ⟨hsp, hw, hkept⟩

/-- `RETH` with a stack clear of the register page. -/
theorem reth_of_clear (hstack : ∀ x, joinBytes 0xFF (s.slot .sp + 1) ≠ slotAddr x) (h : exec .reth s = .next t) :
    t.slot .sp = s.slot .sp + 1 ∧ t.pc = joinBytes (s.readMem (joinBytes 0xFF (s.slot .sp + 1))) (s.slot .w) := by
  obtain ⟨t', h', -, hpc, hsp, -, -, -, -⟩ := returnJumps s hwf
  obtain rfl := Host.Outcome.next.inj (h'.symm.trans h)
  rw [popRead, if_neg (hstack .sp)] at hpc
  exact ⟨hsp, hpc⟩

end

/-- The stack addresses `{0xFF, sp}` and `{0xFF, sp - 1}` of a call stand clear of the register page. -/
structure CallStackClear (sp : Byte) : Prop where
  high : ∀ x : Slot, joinBytes 0xFF sp ≠ slotAddr x
  low : ∀ x : Slot, joinBytes 0xFF (sp - 1) ≠ slotAddr x

theorem callStackClear_of_le {sp : Byte} (h : sp.toNat ≤ 0xEF) : CallStackClear sp where
  high := joinBytes_ne_slotAddr (.inl (by omega))
  low := joinBytes_ne_slotAddr (by bv_omega)

theorem joinBytes_sub_one_ne (hi sp : Byte) : joinBytes hi sp ≠ joinBytes hi (sp - 1) := by
  rw [Ne, joinBytes_inj]
  bv_omega

theorem sub_one_sub_one (v : Byte) : v - 1 - 1 = v - 2 := by bv_omega

theorem sub_two_add_one (v : Byte) : v - 2 + 1 = v - 1 := by bv_omega

theorem MemoryKept.readMem_of_ne {s t : State} {a b c d e : Addr} (h : MemoryKept s t [b, c, d, e]) (hb : a ≠ b)
    (hc : a ≠ c) (hd : a ≠ d) (he : a ≠ e) : t.readMem a = s.readMem a :=
  h a (by simp [hb, hc, hd, he])

/-- `PSHI`, `CALJ` go to the target and leave their two bytes on the stack. -/
theorem pshi_calj_of_clear {s s1 s2 : State} {sp lo hi x y : Byte} (hclear : CallStackClear sp) (hwf : s.mem.wf = true)
    (hsp : s.slot .sp = sp)
    (h4 : s.pc + 4 ∉ [slotAddr .pl, slotAddr .ph, slotAddr .sp, slotAddr .w, joinBytes 0xFF sp])
    (h5 : s.pc + 5 ∉ [slotAddr .pl, slotAddr .ph, slotAddr .sp, slotAddr .w, joinBytes 0xFF sp])
    (hhi : s.readMem (s.pc + 4) = hi) (hy : s.readMem (s.pc + 5) = y) (h1 : exec (.pshi x) s = .next s1)
    (h2 : exec (.calj lo hi y) s1 = .next s2) :
    s2.pc = joinBytes hi lo ∧ s2.slot .sp = sp - 2 ∧ s2.readMem (joinBytes 0xFF sp) = x ∧
      s2.readMem (joinBytes 0xFF (sp - 1)) = y := by
  subst hsp
  obtain ⟨hpc1, hsp1, hhigh1, hkept1⟩ := pshi_of_clear hwf hclear.high h1
  have hwf1 : s1.mem.wf = true := slotInvariant_wf.exec (.pshi x) rfl hwf s1 h1
  have hpc4 : s1.pc + 2 = s.pc + 4 := by rw [hpc1, BitVec.add_assoc]; rfl
  have hpc5 : s1.pc + 3 = s.pc + 5 := by rw [hpc1, BitVec.add_assoc]; rfl
  simp only [List.mem_cons, List.not_mem_nil, or_false, not_or] at h4 h5
  obtain ⟨hpl4, hph4, hsp4, hw4, hstack4⟩ := h4
  obtain ⟨hpl5, hph5, hsp5, hw5, hstack5⟩ := h5
  have hhi1 := (hkept1.readMem_of_ne hpl4 hph4 hstack4 hsp4).trans hhi
  have hy1 := (hkept1.readMem_of_ne hpl5 hph5 hstack5 hsp5).trans hy
  rw [← hpc4] at hhi1 hw4
  rw [← hpc5] at hy1 hw5 hph5
  obtain ⟨hpc2, hsp2, hlow2, hkept2⟩ := calj_of_clear hwf1 (hsp1 ▸ hclear.low) hhi1 hy1 hw4 hw5 hph5 h2
  rw [hsp1] at hsp2 hlow2 hkept2
  have hhigh2 := hkept2.readMem_of_ne (hclear.high _) (hclear.high _) (joinBytes_sub_one_ne _ _) (hclear.high _)
  exact ⟨hpc2, hsp2.trans (sub_one_sub_one _), hhigh2.trans hhigh1, hlow2⟩

/-- `RETL`, `RETH` go to the address on the stack. -/
theorem retl_reth_of_clear {u u1 u2 : State} {sp : Byte} {ret : Addr} (hclear : CallStackClear sp)
    (hwf : u.mem.wf = true) (hsp : u.slot .sp = sp - 2) (hhigh : u.readMem (joinBytes 0xFF sp) = hiByte ret)
    (hlow : u.readMem (joinBytes 0xFF (sp - 1)) = loByte ret) (h1 : exec .retl u = .next u1)
    (h2 : exec .reth u1 = .next u2) : u2.pc = ret ∧ u2.slot .sp = sp := by
  have hup : u.slot .sp + 1 = sp - 1 := by rw [hsp, sub_two_add_one]
  obtain ⟨hsp1, hw1, hkept1⟩ := retl_of_clear hwf (hup ▸ hclear.low) h1
  have hup1 : u1.slot .sp + 1 = sp := by rw [hsp1, hup, BitVec.sub_add_cancel]
  have hwf1 : u1.mem.wf = true := slotInvariant_wf.exec .retl rfl hwf u1 h1
  obtain ⟨hsp2, hpc2⟩ := reth_of_clear hwf1 (hup1.symm ▸ hclear.high) h2
  have hhigh1 := hkept1.readMem_of_ne (hclear.high _) (hclear.high _) (hclear.high _) (hclear.high _)
  rw [hup1, hhigh1, hhigh, hw1, hup, hlow, joinBytes_hiByte_loByte] at hpc2
  exact ⟨hpc2, hsp2.trans hup1⟩

/-- Settles O48: the call, and the return from any state that has its stack. -/
theorem callThenReturn : Obligations.CallThenReturn := by
  intro s s1 s2 lo hi ret sp hwf hle hcode hhi hlow h1 h2
  have hclear := callStackClear_of_le hle
  have h4 := hcode 4 (by decide)
  have h5 := hcode 5 (by decide)
  obtain ⟨hpc, hsp, hhigh, hlow⟩ := pshi_calj_of_clear hclear hwf rfl h4 h5 hhi hlow h1 h2
  exact ⟨hpc, hsp, hhigh, hlow, fun u u1 u2 => retl_reth_of_clear hclear⟩

end Sys2Proof.Machine

/-! SUPPORT. Port 3, the UART and the host: what the I/O instructions change and leave, whole frames on the two serial
lines, and the host's actions (`47_io_uart.md` R199 to R205). -/

namespace Sys2Proof.Machine

/-! ## The host's actions (`47_io_uart.md` R205) -/

section
variable {s t : State}

theorem hostFill_pending (b : Byte) (h : s.rxpend = true) : hostFill b s = .refused .hostFillWhilePending := if_pos h

theorem hostFill_free (b : Byte) (h : s.rxpend = false) : hostFill b s = .next { s with rxb := b, rxpend := true } := by
  simp [hostFill, h]

/-- A fill that is accepted sets `RXB` and `RXPEND`. -/
theorem eq_of_hostFill {b : Byte} (h : hostFill b s = .next t) : t = { s with rxb := b, rxpend := true } := by
  cases hp : s.rxpend with
  | true => rw [hostFill_pending b hp] at h; cases h
  | false => rw [hostFill_free b hp] at h; cases h; rfl

/-- A drain with nothing to take leaves `TXRDY` = 0, which it is already. -/
theorem hostDrain_eq (s : State) : hostDrain s = { s with txrdy := false } := by
  unfold hostDrain
  split
  · rfl
  · next h => rw [← Bool.eq_false_of_not_eq_true h]

theorem hostDelivered_ready (h : s.txrdy = true) : hostDelivered s = some s.txd := if_pos h

theorem hostDelivered_none (h : s.txrdy = false) : hostDelivered s = none := by simp [hostDelivered, h]

end

/-- Settles O54: each action by its own equation. -/
theorem hostTouchesTheLatchesOnly : Obligations.HostTouchesTheLatchesOnly := fun s b =>
  ⟨rfl, hostFill_pending b, hostFill_free b, congrArg _ (hostDrain_eq s), hostDelivered_ready, hostDelivered_none, rfl⟩

/-! ## `OUT` and `OUTI` on port 3 (`47_io_uart.md` R201, R203) -/

section
variable (s : State) (v : Byte)

theorem mem_port3Write : (s.port3Write v).mem = s.mem := (congrArg State.mem (port3Write_frame s v) :)

theorem pc_port3Write : (s.port3Write v).pc = s.pc := (congrArg State.pc (port3Write_frame s v) :)

theorem t_port3Write : (s.port3Write v).t = s.t := (congrArg State.t (port3Write_frame s v) :)

theorem mem_port3Polled : s.port3Polled.mem = s.mem := (congrArg State.mem (port3Polled_frame s) :)

theorem pc_port3Polled : s.port3Polled.pc = s.pc := (congrArg State.pc (port3Polled_frame s) :)

theorem uartKept_endSlot : UartKept s s.endSlot := uartKept_refl s

end

/-- The state `u` in which `i` writes its port: from `s`, the instruction fetched and the byte in `T`. -/
structure ByteTaken (i : Instr) (v : Byte) (s u : State) : Prop where
  ir : u.ir = i.opcode
  pc : u.pc = s.pc + BitVec.ofNat 16 i.bytes
  temp : u.t = v
  flags : u.flags = s.flags
  mem : u.mem = s.mem
  uart : UartKept s u

/-- The two writers of port 3, each with the byte it writes. -/
def portThreeWrites (s : State) (r : Reg) (imm : Byte) : List (Instr × Byte) :=
  [(.out .p3 r, s.reg r), (.outi .p3 imm, imm)]

/-- Each of them takes its byte to `T`, writes the port and ends its slot. -/
theorem exec_of_mem_portThreeWrites {s : State} {r : Reg} {imm v : Byte} {i : Instr}
    (h : (i, v) ∈ portThreeWrites s r imm) :
    ∃ u : State, ByteTaken i v s u ∧ exec i s = .next (u.port3Write v).endSlot := by
  simp only [portThreeWrites, List.mem_cons, Prod.mk.injEq, List.not_mem_nil, or_false] at h
  obtain ⟨rfl, rfl⟩ | ⟨rfl, rfl⟩ := h
  · exact ⟨(s.fetched (.out .p3 r)).setT (s.reg r), ⟨rfl, pc_fetched s _, rfl, rfl, rfl, uartKept_refl s⟩, rfl⟩
  · exact ⟨(s.fetched (.outi .p3 v)).takeOperand v,
      ⟨rfl, pc_incPc_fetched s _, rfl, rfl, rfl, uartKept_refl s⟩, rfl⟩

section
variable {i : Instr} {v : Byte} {s u : State} (h : ByteTaken i v s u)
include h

/-- The write is the one that the state before the instruction makes. -/
theorem ByteTaken.transmitWritten (hn : s.txn.toNat ≤ 8) : TransmitWritten s (u.port3Write v).endSlot v := by
  obtain ⟨⟨-, -, htxn, -⟩, -⟩ := h.uart
  exact (h.uart.1.trans_written (transmitWritten_port3 u v (htxn ▸ hn))).trans_kept (uartKept_endSlot _).1

theorem ByteTaken.receiveKept : ReceiveKept s (u.port3Write v).endSlot :=
  (h.uart.2.trans (receiveKept_port3Write u v)).trans (uartKept_endSlot _).2

theorem ByteTaken.memoryKept : MemoryKept s (u.port3Write v).endSlot [] :=
  memoryKept_of_mem_eq ((mem_port3Write u v).trans h.mem) _

end

/-- Settles O50: the byte is taken, then written to the port. -/
theorem portThreeWrite : Obligations.PortThreeWrite := by
  intro s r imm i v hn hmem
  obtain ⟨u, h, hexec⟩ := exec_of_mem_portThreeWrites hmem
  obtain ⟨hout, hstart, hidle, hbit⟩ := h.transmitWritten hn
  exact ⟨_, hexec, ⟨(ir_port3Write u v).trans h.ir, rfl, rfl⟩, (pc_port3Write u v).trans h.pc, hout,
    (t_port3Write u v).trans h.temp, (flags_port3Write u v).trans h.flags, h.memoryKept, h.receiveKept, hstart, hidle,
    hbit⟩

/-! ## `IN` from port 3 (`47_io_uart.md` R202) -/

/-- The state in which `IN` has polled port 3 and has the value in its register. -/
def State.polledTo (s : State) (r : Reg) : State :=
  (s.fetched (.inp r .p3)).port3Polled.result (regSlot r) s.port3Value

section
variable (s : State) (r : Reg)

theorem exec_inp_port3 : exec (.inp r .p3) s = .next (s.polledTo r).endSlot := rfl

theorem transmitKept_polledTo : TransmitKept s (s.polledTo r) := transmitKept_port3Polled (s.fetched (.inp r .p3))

/-- The poll is the one that the state before the instruction makes. -/
theorem receivePolled_polledTo : ReceivePolled s (s.polledTo r) s.port3Value :=
  receivePolled_port3 (s.fetched (.inp r .p3))

theorem memoryKept_polledTo : MemoryKept s (s.polledTo r) [slotAddr (regSlot r)] :=
  (memoryKept_of_mem_eq (t := (s.fetched (.inp r .p3)).port3Polled) (mem_port3Polled _) []).trans
    (memoryKept_result _ (regSlot r) _)

theorem pc_polledTo : (s.polledTo r).pc = s.pc + 1 := (pc_port3Polled _).trans (pc_fetched s _)

theorem reg_polledTo {s : State} (hwf : s.mem.wf = true) (r : Reg) : (s.polledTo r).reg r = s.port3Value :=
  reg_result_self ((mem_port3Polled (s.fetched (.inp r .p3))).symm ▸ hwf) r _

end

/-- Settles O51: the poll, its value in the register. -/
theorem portThreeRead : Obligations.PortThreeRead := by
  intro s r hwf _
  have hreg : (s.polledTo r).endSlot.reg r = s.port3Value := reg_polledTo hwf r
  have hpolled : ReceivePolled s (s.polledTo r).endSlot ((s.polledTo r).endSlot.reg r) :=
    hreg ▸ (receivePolled_polledTo s r).trans_kept (uartKept_endSlot _).2
  obtain ⟨hrxb, hstart, hidle, hbit⟩ := hpolled
  exact ⟨_, exec_inp_port3 s r, ⟨ir_port3Polled (s.fetched _), rfl, rfl⟩, pc_polledTo s r, hreg.symm,
    flags_port3Polled (s.fetched _), (memoryKept_polledTo s r).endSlot, transmitKept_polledTo s r, hrxb, hstart, hidle,
    hbit⟩

/-! ## The bit count of a frame under way (`10_state.md` R10) -/

section
variable {c : Nibble} {n : Nat} (hc : c.toNat = n + 1)
include hc

theorem bitCount_ne_zero : c ≠ 0 := by rintro rfl; simp at hc

/-- Before the eighth bit the count advances. -/
theorem toNat_bitCount_succ (hn : n < 7) : (if c = 8 then 0 else c + 1).toNat = n + 2 := by
  have hne : c ≠ 8 := by rintro rfl; simp at hc; omega
  rw [if_neg hne]
  bv_omega

end

theorem bitCount_eq_eight {c : Nibble} (hc : c.toNat = 8) : c = 8 := BitVec.eq_of_toNat_eq hc

/-! ## A transmitted frame (`47_io_uart.md` R200) -/

/-- `n` writes of port 3, the bytes `w 0`, `w 1`, and so on. -/
def State.writes (s : State) (w : Nat → Byte) (n : Nat) : State :=
  (List.range n).foldl (fun u k => u.port3Write (w k)) s

theorem writes_succ (s : State) (w : Nat → Byte) (n : Nat) :
    s.writes w (n + 1) = (s.writes w n).port3Write (w n) := by simp [State.writes, List.range_succ]

theorem receiveKept_writes (s : State) (w : Nat → Byte) (n : Nat) : ReceiveKept s (s.writes w n) := by
  induction n with
  | zero => exact (uartKept_refl s).2
  | succ n ih =>
    rw [writes_succ]
    exact ih.trans (receiveKept_port3Write _ _)

/-- A transmit frame is under way and has the `n` lowest bits of `b`. -/
structure Transmitting (b : Byte) (n : Nat) (s : State) : Prop where
  count : s.txn.toNat = n + 1
  bits : ∀ k : Nat, k < n → s.txb.getLsbD k = b.getLsbD k

section
variable {s : State} {v b : Byte}

/-- A falling edge on the idle line. -/
theorem transmitting_start (hidle : s.txn = 0) (hout : s.out.getLsbD 0 = true) (hv : v.getLsbD 0 = false) :
    Transmitting b 0 (s.port3Write v) := by
  obtain ⟨-, hstart, -, -⟩ := transmitWritten_port3 s v (by simp [hidle])
  obtain ⟨htxn, -⟩ := hstart hidle hout hv
  exact ⟨by rw [htxn]; rfl, nofun⟩

variable {n : Nat} (h : Transmitting b n s)
include h

/-- What a write does within a frame. -/
theorem Transmitting.written (hn : n < 8) (hv : v.getLsbD 0 = b.getLsbD n) :
    (∀ k : Nat, k < n + 1 → (s.port3Write v).txb.getLsbD k = b.getLsbD k) ∧
      (s.port3Write v).txn = (if s.txn = 8 then 0 else s.txn + 1) ∧
      (s.port3Write v).txd = (if s.txn = 8 then (s.port3Write v).txb else s.txd) ∧
      (s.port3Write v).txrdy = (if s.txn = 8 then true else s.txrdy) := by
  have hcount : s.txn.toNat ≤ 8 := h.count ▸ hn
  obtain ⟨-, -, -, hbit⟩ := transmitWritten_port3 s v hcount
  obtain ⟨hbits, hrest⟩ := hbit (bitCount_ne_zero h.count)
  refine ⟨fun k hk => ?_, hrest⟩
  rw [hbits k (by omega), h.count]
  obtain hlt | rfl := Nat.lt_succ_iff_lt_or_eq.1 hk
  · rw [if_neg (by omega), h.bits k hlt]
  · rw [if_pos rfl, hv]

/-- Any bit but the last goes on with the frame. -/
theorem Transmitting.next (hn : n < 7) (hv : v.getLsbD 0 = b.getLsbD n) : Transmitting b (n + 1) (s.port3Write v) := by
  obtain ⟨hbits, htxn, -⟩ := h.written (by omega) hv
  exact ⟨by rw [htxn, toNat_bitCount_succ h.count hn], hbits⟩

end

/-- The eighth bit delivers the byte. -/
theorem Transmitting.last {s : State} {v b : Byte} (h : Transmitting b 7 s) (hv : v.getLsbD 0 = b.getLsbD 7) :
    (s.port3Write v).txd = b ∧ (s.port3Write v).txrdy = true ∧ (s.port3Write v).txn = 0 := by
  obtain ⟨hbits, htxn, htxd, htxrdy⟩ := h.written (by decide) hv
  have h8 := bitCount_eq_eight h.count
  rw [if_pos h8] at htxn htxd htxrdy
  exact ⟨htxd.trans (BitVec.eq_of_getLsbD_eq hbits), htxrdy, htxn⟩

/-- The first seven bits of a frame, by induction on their number. -/
theorem transmitting_writes {s : State} {w : Nat → Byte} {b : Byte} (h : Transmitting b 0 s)
    (hw : ∀ k : Nat, k < 8 → (w k).getLsbD 0 = b.getLsbD k) {n : Nat} (hn : n ≤ 7) : Transmitting b n (s.writes w n) := by
  induction n with
  | zero => exact h
  | succ n ih =>
    rw [writes_succ]
    exact (ih (by omega)).next hn (hw n (by omega))

/-- Settles O52: the start bit, seven bits that go on with the frame, and the eighth that delivers. -/
theorem transmitFrameDeliversTheByte : Obligations.TransmitFrameDeliversTheByte := by
  intro s start w b hidle hout hstart hw t
  have hseven := transmitting_writes (transmitting_start hidle hout hstart) hw (le_refl 7)
  have ht : t = ((s.port3Write start).writes w 7).port3Write (w 7) := writes_succ _ w 7
  obtain ⟨htxd, htxrdy, htxn⟩ := hseven.last (hw 7 (by decide))
  rw [← ht] at htxd htxrdy htxn
  exact ⟨htxd, htxrdy, htxn, congrArg State.out ht, htxd ▸ hostDelivered_ready htxrdy,
    (receiveKept_port3Write s start).trans (receiveKept_writes _ w 8)⟩

/-! ## A received frame (`47_io_uart.md` R199) -/

/-- `n` polls of port 3. -/
def State.polls (s : State) (n : Nat) : State := (List.range n).foldl (fun u _ => u.port3Polled) s

theorem polls_succ (s : State) (n : Nat) : s.polls (n + 1) = (s.polls n).port3Polled := by
  simp [State.polls, List.range_succ]

theorem transmitKept_polls (s : State) (n : Nat) : TransmitKept s (s.polls n) := by
  induction n with
  | zero => exact (uartKept_refl s).1
  | succ n ih =>
    rw [polls_succ]
    exact ih.trans (transmitKept_port3Polled _)

/-- A receive frame of `b` is under way and the next poll reads its bit `n`. -/
structure Receiving (b : Byte) (n : Nat) (s : State) : Prop where
  byte : s.rxb = b
  count : s.rxn.toNat = n + 1
  idle : s.rxidle = 0

/-- A pending byte starts a frame when `OUT[1]` = 1: the poll reads the start bit. -/
theorem receiving_start {s : State} (hidle : s.rxn = 0) (hpend : s.rxpend = true) (hout : s.out.getLsbD 1 = true) :
    s.port3Value = 0x00 ∧ Receiving s.rxb 0 s.port3Polled := by
  obtain ⟨hrxb, hstart, -, -⟩ := receivePolled_port3 s
  obtain ⟨hvalue, hrxn, hrxidle, -⟩ := hstart hidle hpend hout
  exact ⟨hvalue, hrxb, by rw [hrxn]; rfl, hrxidle⟩

section
variable {s : State} {b : Byte} {n : Nat} (h : Receiving b n s)
include h

/-- Within a frame a poll reads the next bit. -/
theorem Receiving.value : s.port3Value = if b.getLsbD n then 0x01 else 0x00 := by
  obtain ⟨-, -, -, hbit⟩ := receivePolled_port3 s
  obtain ⟨hvalue, -⟩ := hbit (bitCount_ne_zero h.count)
  rw [hvalue, h.count, h.byte, Nat.add_sub_cancel]

/-- A poll that reads any bit but the last goes on with the frame. -/
theorem Receiving.next (hn : n < 7) : Receiving b (n + 1) s.port3Polled := by
  obtain ⟨hrxb, -, -, hbit⟩ := receivePolled_port3 s
  obtain ⟨-, hrxidle, hrxn, -⟩ := hbit (bitCount_ne_zero h.count)
  exact ⟨hrxb.trans h.byte, by rw [hrxn, toNat_bitCount_succ h.count hn], hrxidle.trans h.idle⟩

end

/-- The poll that reads the eighth bit ends the frame and the pending byte. -/
theorem Receiving.last {s : State} {b : Byte} (h : Receiving b 7 s) :
    s.port3Polled.rxn = 0 ∧ s.port3Polled.rxpend = false ∧ s.port3Polled.rxidle = 0 := by
  obtain ⟨-, -, -, hbit⟩ := receivePolled_port3 s
  obtain ⟨-, hrxidle, hrxn, hrxpend⟩ := hbit (bitCount_ne_zero h.count)
  have h8 := bitCount_eq_eight h.count
  rw [if_pos h8] at hrxn hrxpend
  exact ⟨hrxn, hrxpend, hrxidle.trans h.idle⟩

/-- With no frame and no byte pending a poll reads the idle line. -/
theorem port3Value_idle {s : State} (hidle : s.rxn = 0) (hpend : s.rxpend = false) : s.port3Value = 0x01 := by
  obtain ⟨-, -, hline, -⟩ := receivePolled_port3 s
  obtain ⟨hvalue, -⟩ := hline hidle (.inl hpend)
  exact hvalue

/-- The polls of a frame after its start bit, by induction on their number. -/
theorem receiving_polls {s : State} {b : Byte} (h : Receiving b 0 s.port3Polled) {n : Nat} (hn : n ≤ 7) :
    Receiving b n (s.polls (n + 1)) := by
  induction n with
  | zero => exact h
  | succ n ih =>
    rw [polls_succ]
    exact (ih (by omega)).next hn

/-- Settles O53: the start bit, the eight bits, and the idle line after them. -/
theorem receiveFrameReadsTheByte : Obligations.ReceiveFrameReadsTheByte := by
  intro s s0 b hidle hout hfill polled
  obtain rfl := eq_of_hostFill hfill
  obtain ⟨hvalue, hstart⟩ := receiving_start (s := { s with rxb := b, rxpend := true }) hidle rfl hout
  have hframe {n : Nat} (hn : n ≤ 7) : Receiving b n (polled (n + 1)) := receiving_polls hstart hn
  have hlast : polled 9 = (polled 8).port3Polled := polls_succ _ 8
  obtain ⟨hrxn, hrxpend, hrxidle⟩ := (hframe (le_refl 7)).last
  rw [← hlast] at hrxn hrxpend hrxidle
  exact ⟨hvalue, fun k hk => (hframe (Nat.le_of_lt_succ hk)).value, hrxn, hrxpend, hrxidle,
    port3Value_idle hrxn hrxpend, transmitKept_polls { s with rxb := b, rxpend := true } 9⟩

end Sys2Proof.Machine

/-! SUPPORT. Cycles that go on with the slot, at any microstep of either regime (`41_cycle.md` R110 to R118). -/

namespace Sys2Proof.Machine

/-- `n` cycles, none of which ends the slot, take `s` to `t`. -/
inductive CyclesTo (img : BootImage) : Nat → State → State → Prop
  | refl (s : State) : CyclesTo img 0 s s
  | head {n : Nat} {s u t : State} : cycle img s = .ok (u, false) → CyclesTo img n u t → CyclesTo img (n + 1) s t

section
variable {img : BootImage} {n : Nat} {s t : State}

theorem CyclesTo.trans {m : Nat} {u : State} (h : CyclesTo img n s u) (k : CyclesTo img m u t) :
    CyclesTo img (m + n) s t := by
  induction h with
  | refl => exact k
  | head hcycle _ ih => exact .head hcycle (ih k)

/-- The slot goes on from where its cycles have taken it. -/
theorem CyclesTo.slotLoop (h : CyclesTo img n s t) (fuel done : Nat) :
    slotLoop img (fuel + n) done s = slotLoop img fuel (done + n) t := by
  induction h generalizing done with
  | refl => rfl
  | head hcycle _ ih =>
    rw [← Nat.add_assoc, Machine.slotLoop, hcycle]
    dsimp only
    rw [ih, Nat.add_assoc, Nat.add_comm 1]

/-- A run with the empty host goes on from where its cycles have taken it. -/
theorem CyclesTo.runCyclesWithHost (h : CyclesTo img n s t) (fuel k : Nat) :
    runCyclesWithHost img emptyHost (fuel + n) k s = runCyclesWithHost img emptyHost fuel (k + n) t := by
  induction h generalizing k with
  | refl => rfl
  | head hcycle _ ih =>
    rw [← Nat.add_assoc, runCyclesWithHost_next _ (by rw [hostedCycle_empty, hcycle]), ih, Nat.add_assoc,
      Nat.add_comm 1]

theorem runCyclesWithHost_cycle_error (fuel k : Nat) {f : Fault} (h : cycle img s = .error f) :
    runCyclesWithHost img emptyHost (fuel + 1) k s = .fault f :=
  runCyclesWithHost_fault fuel (by rw [hostedCycle_empty, h]; rfl)

end

/-- The state at a microstep. -/
def State.atStep (s : State) (k : Nibble) : State := { s with ustep := k }

theorem atStep_of_ustep {s : State} {k : Nibble} (h : s.ustep = k) : s.atStep k = s := by
  rw [State.atStep, ← h]

/-- A row that accesses no port, loads no opcode and does not end the slot. -/
theorem cycle_atStep (img : BootImage) {s : State} {k : Nibble} {m : MicroOp} (hm : ucodeRow s.flags k s.ir = m)
    (hq : m.isQuiet = true) (hk : k ≠ 15) :
    cycle img (s.atStep k) = .ok ((s.runRow img m).atStep (k + 1), false) := by
  obtain ⟨hsource, hio, -, hrst⟩ := MicroOp.isQuiet_iff.1 hq
  have hbus : (s.atStep k).busValue img m.source = s.busValue img m.source := by cases m.source <;> rfl
  have hafter : (s.atStep k).afterRow m (s.busValue img m.source) = (s.runRow img m).atStep (k + 1) := by
    simp only [State.afterRow, if_neg hrst]
    rfl
  have hwrap : ((s.atStep k).ustep == 15) = false := beq_false_of_ne hk
  rw [cycle_row img _ hm hsource hio, hbus, hafter, decide_eq_false hrst, hwrap]
  rfl

/-- `RST` ends the slot. -/
theorem slotLoop_atStep_rst (img : BootImage) {s : State} {k : Nibble} (hm : ucodeRow s.flags k s.ir = rstOp)
    (fuel done : Nat) : slotLoop img (fuel + 1) done (s.atStep k) = .complete s.endPlain (done + 1) :=
  slotLoop_rst img fuel done (s.atStep k) hm nofun rfl

/-- A quiet row of a slot of the normal regime, by its number. -/
theorem cycle_atRow (img : BootImage) {s : State} {n : Nat} {m : MicroOp} (hi : flagI s.flags = true)
    (hm : s.rows.getD n idleOp = m) (hn : n < 14) (hq : m.isQuiet = true) :
    cycle img (s.atRow n) = .ok ((s.runRow img m).atRow (n + 1), false) := by
  have hstep : BitVec.ofNat 4 (n + 1) + 1 = BitVec.ofNat 4 (n + 1 + 1) := (BitVec.ofNat_add ..).symm
  have hcycle := cycle_atStep img ((ucodeRow_atRow hi (by omega)).trans hm) hq (atRow_ne_wrap s hn)
  rw [show (s.atRow n).ustep + 1 = BitVec.ofNat 4 (n + 1 + 1) from hstep] at hcycle
  exact hcycle

end Sys2Proof.Machine

/-! SUPPORT. The faults of a cycle and of an instruction (`60_exceptions.md` R211 to R216), the flag writers
(`70_reset_and_hazards.md` R246), and the placing of an instruction (`70_reset_and_hazards.md` R237). -/

namespace Sys2Proof.Machine

/-! ## A port access by the select (`47_io_uart.md` R196, R197) -/

/-- Port 3 answers to its own code alone. -/
theorem portOfCode_eq_p3_iff (code : Nibble) : portOfCode code = some .p3 ↔ code = 8 := by revert code; decide

section
variable {s : State} {code : Nibble} {v : Byte}

theorem ioRead_eight (h : s.bsel = 8) : s.ioRead = .ok (s.port3Value, s.port3Polled) := by
  rw [State.ioRead, (portOfCode_eq_p3_iff _).2 h]
  rfl

theorem ioRead_of_ne_eight (h : s.bsel ≠ 8) : s.ioRead = .error .unsupportedPort := by
  unfold State.ioRead
  split
  · rfl
  next q hq =>
    cases q with
    | p3 => exact absurd ((portOfCode_eq_p3_iff _).1 hq) h
    | p0 | p1 | p2 => rfl

theorem ioWrite_eight (h : code = 8) : s.ioWrite code v = .ok (s.port3Write v) := by
  rw [State.ioWrite, (portOfCode_eq_p3_iff _).2 h]
  rfl

theorem ioWrite_of_ne_eight (h : code ≠ 8) : s.ioWrite code v = .error .unsupportedPort := by
  unfold State.ioWrite
  split
  · rfl
  next q hq =>
    cases q with
    | p3 => exact absurd ((portOfCode_eq_p3_iff _).1 hq) h
    | p0 | p1 | p2 => rfl

end

/-! ## The checks of a cycle in their order (`60_exceptions.md` R216) -/

/-- Every driver but a port that does not exist drives the bus. -/
theorem exists_drive (img : BootImage) {s : State} {source : BusSource} (h : source = .io → s.bsel = 8) :
    ∃ (bus : Byte) (u : State), s.drive img source = .ok (bus, u) := by
  cases source with
  | io => exact ⟨_, _, ioRead_eight (h rfl)⟩
  | mem | temp | const | alu => exact ⟨_, _, rfl⟩

theorem wordReserved_iff {w : ControlWord} :
    wordReserved w = true ↔ w.getLsbD 14 = false ∧ 4 ≤ (w.extractLsb' 10 4).toNat := by
  rw [wordReserved, Bool.and_eq_true, Bool.not_eq_true', decide_eq_true_iff]
  rfl

section
variable {img : BootImage} {w : ControlWord} {s u : State} {source : BusSource} {bus : Byte}

theorem cycleWord_no_driver (hsource : wordSource w = none) : cycleWord img w s = .error .busContention := by
  rw [cycleWord, hsource]

theorem cycleWord_bad_read (hsource : wordSource w = some .io) (hport : s.bsel ≠ 8) :
    cycleWord img w s = .error .unsupportedPort := by
  have hdrive : s.drive img .io = .error .unsupportedPort := ioRead_of_ne_eight hport
  rw [cycleWord, hsource]
  dsimp only
  rw [hdrive]

variable (hsource : wordSource w = some source) (hdrive : s.drive img source = .ok (bus, u))
include hsource hdrive

theorem cycleWord_reserved (hreserved : wordReserved w = true) : cycleWord img w s = .error .reservedAux := by
  simp [cycleWord, hsource, hdrive, hreserved]

variable (hreserved : ¬wordReserved w = true)
include hreserved

theorem cycleWord_bad_write (hwrites : wordAux w 2 = true) (hport : s.bsel ≠ 8) :
    cycleWord img w s = .error .unsupportedPort := by
  simp only [cycleWord, hsource, hdrive, if_neg hreserved, if_pos hwrites, ioWrite_of_ne_eight hport]

/-- A cycle that passes every check goes through its stages. -/
theorem cycleWord_next (hport : wordAux w 2 = true → s.bsel = 8) :
    cycleWord img w s = .ok (((u.loaded w bus).portLoaded w bus).advance w) := by
  by_cases hwrites : wordAux w 2 = true
  · simp only [cycleWord, hsource, hdrive, if_neg hreserved, if_pos hwrites, ioWrite_eight (hport hwrites),
      State.portLoaded]
    rfl
  · simp only [cycleWord, hsource, hdrive, if_neg hreserved, if_neg hwrites, State.portLoaded]
    rfl

end

/-- Settles O13: the driver, then its value, then the auxiliary code, then the write of the port. -/
theorem cycleFaultsInOrder : Obligations.CycleFaultsInOrder := by
  intro img w s oneDriver badRead reserved badWrite
  have driven (hone : oneDriver) (hread : ¬badRead) :
      ∃ source bus u, wordSource w = some source ∧ s.drive img source = .ok (bus, u) := by
    obtain ⟨source, hsource⟩ := Option.ne_none_iff_exists'.1 hone
    have hport : source = .io → s.bsel = 8 := fun hio => of_not_not fun hne => hread ⟨hio ▸ hsource, hne⟩
    obtain ⟨bus, u, hdrive⟩ := exists_drive img hport
    exact ⟨source, bus, u, hsource, hdrive⟩
  refine ⟨fun hnone => cycleWord_no_driver (not_not.1 hnone), fun _ ⟨hio, hport⟩ => cycleWord_bad_read hio hport,
    fun hone hread hreserved => ?_, fun hone hread hreserved ⟨hlatch, hcode, hport⟩ => ?_,
    fun hone hread hreserved hwrite => ?_⟩
  · obtain ⟨source, bus, u, hsource, hdrive⟩ := driven hone hread
    exact cycleWord_reserved hsource hdrive (wordReserved_iff.2 hreserved)
  · obtain ⟨source, bus, u, hsource, hdrive⟩ := driven hone hread
    exact cycleWord_bad_write hsource hdrive (mt wordReserved_iff.1 hreserved) (wordAux_iff.2 ⟨hlatch, hcode⟩) hport
  · obtain ⟨source, bus, u, hsource, hdrive⟩ := driven hone hread
    have hport (hwrites : wordAux w 2 = true) : s.bsel = 8 := of_not_not fun hne =>
      have ⟨hlatch, hcode⟩ := wordAux_iff.1 hwrites
      hwrite ⟨hlatch, hcode, hne⟩
    exact ⟨_, _, cycleWord_next hsource hdrive (mt wordReserved_iff.1 hreserved) hport⟩

/-! ## The instructions that end in a fault (`60_exceptions.md` R211) -/

theorem exec_of_usesMissingPort {i : Instr} (h : i.usesMissingPort = true) (s : State) :
    exec i s = .fault .unsupportedPort := by
  cases i with
  | out q r | outi q imm => exact sendPort_missing _ (by simpa [Instr.usesMissingPort] using h)
  | inp r q => exact execInp_missing s r (by simpa [Instr.usesMissingPort] using h)
  | _ => cases h

/-- An `STF` completes, whatever regime it leaves. -/
theorem exists_exec_stf (r : Reg) (s : State) : ∃ t : State, exec (.stf r) s = .next t := by
  cases hbit : (s.reg r).getLsbD 3 with
  | true => exact ⟨_, exec_stf_of_bit hbit⟩
  | false =>
    obtain ⟨t, hexec, -⟩ := stfClearingInit s r hbit
    exact ⟨t, hexec⟩

theorem exists_exec_of_not_missing {i : Instr} (h : i.usesMissingPort = false) (s : State) :
    ∃ t : State, exec i s = .next t := by
  cases i with
  | out q r | inp r q | outi q imm =>
    obtain rfl : q = .p3 := by simpa [Instr.usesMissingPort] using h
    exact ⟨_, rfl⟩
  | stf r => exact exists_exec_stf r s
  | _ => exact ⟨_, rfl⟩

/-! ## The cycles up to the access (`60_exceptions.md` R215) -/

/-- `n + 1` cycles from `s` reach the access of `i` to port `q`: all but the port's code and the microstep is as in a
state in which the instruction is fetched and `v` is in `T`, and the next cycle faults. -/
structure AccessFaults (img : BootImage) (i : Instr) (q : Port) (v : Byte) (n : Nat) (s u : State) : Prop where
  taken : ByteTaken i v s u
  reached : CyclesTo img (n + 1) s ((u.onPort q).atRow n)
  faults : cycle img ((u.onPort q).atRow n) = .error .unsupportedPort

theorem getD_rows_fetched {s : State} {i : Instr} {n : Nat} {m : MicroOp} (h : s.fetchInstr = i)
    (hm : (microprogram i s.flags).getD n idleOp = m) : (s.fetched i).rows.getD n idleOp = m := by
  rw [rows_of_fetchInstr h, hm]

section
variable (img : BootImage) {s u : State} {q : Port} {n : Nat}

theorem cycle_write_missing (hi : flagI u.flags = true) (hrow : u.rows.getD n idleOp = row .temp [] .io)
    (hn : n < 14) (hq : q ≠ .p3) : cycle img ((u.onPort q).atRow n) = .error .unsupportedPort := by
  rw [cycle_portWrite img ((ucodeRow_atRow (s := u.onPort q) hi (by omega)).trans hrow),
    show ((u.onPort q).atRow n).bsel = portCode q from rfl, ioWrite_missing _ _ _ hq]

theorem cycle_read_missing {x : Slot} (hi : flagI u.flags = true)
    (hrow : u.rows.getD n idleOp = row .io [.temp] (toSlot x)) (hn : n < 14) (hq : q ≠ .p3) :
    cycle img ((u.onPort q).atRow n) = .error .unsupportedPort := by
  rw [cycle_portRead img ((ucodeRow_atRow (s := u.onPort q) hi (by omega)).trans hrow), ioRead_missing _ q hq rfl]

variable (hs : s.atFetch = true) (hq : q ≠ .p3)
include hs hq

theorem accessFaults_out {r : Reg} (h : s.fetchInstr = .out q r) :
    AccessFaults img (.out q r) q (s.reg r) 2 s ((s.fetched (.out q r)).setT (s.reg r)) where
  taken := ⟨rfl, pc_fetched s _, rfl, rfl, rfl, uartKept_refl s⟩
  reached := by
    have hi : flagI (s.fetched (.out q r)).flags = true := (State.atFetch_iff.1 hs).1
    have hselect := cycle_atRow img (n := 0) hi (m := row .const [] (toReg r)) (getD_rows_fetched h rfl) (by decide) rfl
    have hread := cycle_atRow img (n := 1) (s := (s.fetched (.out q r)).onSlot (regSlot r)) hi
      (m := row .mem [.temp] (toPort q)) (getD_rows_fetched h rfl) (by decide) (by cases q <;> rfl)
    rw [toReg_eq, runRow_toSlot, load_nil] at hselect
    rw [runRow_toPort, load_temp, busValue_mem_onSlot] at hread
    exact .head (h ▸ cycle_fetch img hs) (.head hselect (.head hread (.refl _)))
  faults := cycle_write_missing img (u := (s.fetched (.out q r)).setT (s.reg r)) (State.atFetch_iff.1 hs).1
    (getD_rows_fetched h rfl) (by decide) hq

theorem accessFaults_inp {r : Reg} (h : s.fetchInstr = .inp r q) :
    AccessFaults img (.inp r q) q s.t 1 s (s.fetched (.inp r q)) where
  taken := ⟨rfl, pc_fetched s _, rfl, rfl, rfl, uartKept_refl s⟩
  reached := by
    have hselect := cycle_atRow img (n := 0) (s := s.fetched (.inp r q)) (State.atFetch_iff.1 hs).1
      (m := row .const [] (toPort q)) (getD_rows_fetched h rfl) (by decide)
      (by cases q <;> rfl)
    rw [runRow_toPort, load_nil] at hselect
    exact .head (h ▸ cycle_fetch img hs) (.head hselect (.refl _))
  faults := cycle_read_missing img (x := regSlot r) (State.atFetch_iff.1 hs).1
    (getD_rows_fetched h rfl) (by decide) hq

theorem accessFaults_outi {imm : Byte} (h : s.fetchInstr = .outi q imm) :
    AccessFaults img (.outi q imm) q imm 1 s ((s.fetched (.outi q imm)).takeOperand imm) where
  taken := ⟨rfl, pc_incPc_fetched s _, rfl, rfl, rfl, uartKept_refl s⟩
  reached := by
    have hread := cycle_atRow img (n := 0) (s := s.fetched (.outi q imm)) (State.atFetch_iff.1 hs).1
      (m := rowInc .mem [.temp] (toPort q)) (getD_rows_fetched h rfl)
      (by decide) (by cases q <;> rfl)
    rw [runRow_rowInc _ _ _ _ (by decide) (by decide), runRow_toPort, load_temp,
      busValue_mem_fetched img hs h rfl] at hread
    exact .head (h ▸ cycle_fetch img hs) (.head hread (.refl _))
  faults := cycle_write_missing img (u := (s.fetched (.outi q imm)).takeOperand imm) (State.atFetch_iff.1 hs).1
    (getD_rows_fetched (s := s) h rfl) (by decide) hq

end

/-- The port instructions on a port, each with the number of cycles before its access and the byte in `T` there. -/
def portAccesses (s : State) (q : Port) (r : Reg) (imm : Byte) : List (Instr × Nat × Byte) :=
  [(.out q r, 3, s.reg r), (.inp r q, 2, s.t), (.outi q imm, 2, imm)]

theorem accessFaults_of_mem_portAccesses (img : BootImage) {s : State} {q : Port} {r : Reg} {imm v : Byte} {n : Nat}
    (hs : s.atFetch = true) (hq : q ≠ .p3) (h : (s.fetchInstr, n, v) ∈ portAccesses s q r imm) :
    ∃ (k : Nat) (u : State), n = k + 1 ∧ AccessFaults img s.fetchInstr q v k s u := by
  simp only [portAccesses, List.mem_cons, Prod.mk.injEq, List.not_mem_nil, or_false] at h
  obtain ⟨hi, rfl, rfl⟩ | ⟨hi, rfl, rfl⟩ | ⟨hi, rfl, rfl⟩ := h <;> rw [hi]
  · exact ⟨2, _, rfl, accessFaults_out img hs hq hi⟩
  · exact ⟨1, _, rfl, accessFaults_inp img hs hq hi⟩
  · exact ⟨1, _, rfl, accessFaults_outi img hs hq hi⟩

/-- Settles O60: by the port of the instruction, and for its cycles by the state in which it accesses the port. -/
theorem onlyMissingPortsFault : Obligations.OnlyMissingPortsFault := by
  refine ⟨fun i s => ⟨fun h => exec_of_usesMissingPort h s, fun h => exists_exec_of_not_missing h s⟩, ?_⟩
  intro img s q r imm v n hs hq hmem
  obtain ⟨n, u, rfl, h⟩ := accessFaults_of_mem_portAccesses img hs hq hmem
  have hreached := h.reached.runCyclesWithHost 0 0
  rw [Nat.zero_add] at hreached
  refine ⟨⟨_, hreached, h.taken.ir, rfl, rfl, h.taken.temp, h.taken.pc, h.taken.flags,
    memoryKept_of_mem_eq h.taken.mem _, h.taken.uart⟩, ?_⟩
  rw [Nat.add_comm, h.reached.runCyclesWithHost 1 0]
  exact runCyclesWithHost_cycle_error 0 _ h.faults

/-! ## The flag writers (`70_reset_and_hazards.md` R246) -/

theorem flags_jump (s : State) (taken : Bool) (lo hi : Byte) : (s.jump taken lo hi).flags = s.flags :=
  (congrArg State.flags (jump_frame s taken lo hi) :)

theorem flags_sendPort (s : State) (q : Port) : NextHas (fun t => t.flags = s.flags) (s.sendPort q) := by
  cases q with
  | p3 => exact nextHas_next (flags_port3Write s s.t)
  | p0 | p1 | p2 => exact nextHas_fault _ _

theorem flags_execInp (r : Reg) (q : Port) (s : State) :
    NextHas (fun t => t.flags = s.flags) (exec (.inp r q) s) := by
  cases q with
  | p3 => exact nextHas_next (flags_port3Polled (s.fetched (.inp r .p3)))
  | p0 | p1 | p2 => exact nextHas_fault _ _

/-- Of the operations that an instruction is made of only `setFlags` writes `FLAGS`. -/
theorem flags_exec {i : Instr} (h : i.writesFlags = false) (s : State) :
    NextHas (fun t => t.flags = s.flags) (exec i s) := by
  cases i with
  | inc | dec | incc | decc | shl | shr | rcl | rcr | add | addi | tst | stf => cases h
  | jmp | jz | jnz | jc | jnc | js | jbe | jae => exact nextHas_next (flags_jump _ _ _ _)
  | out q r => exact flags_sendPort ((s.fetched (.out q r)).setT (s.reg r)) q
  | inp r q => exact flags_execInp r q s
  | outi q imm => exact flags_sendPort ((s.fetched (.outi q imm)).takeOperand imm) q
  | _ => exact nextHas_next rfl

/-- The flags of a sum and of a right shift have `I` = 1. -/
theorem flagI_exec {i : Instr} (h : i.writesFlags = true) (hstf : i.isStf = false) (s : State) :
    NextHas (fun t => flagI t.flags = true) (exec i s) := by
  cases i with
  | inc | dec | incc | decc | shl | add | addi | rcl | tst => exact nextHas_next (flagI_addFlags _ _)
  | shr | rcr => exact nextHas_next (flagI_shrFlags _)
  | stf => cases hstf
  | _ => cases h

/-- Settles O57. -/
theorem flagWritersAreListed : Obligations.FlagWritersAreListed := fun _ s t ht =>
  ⟨fun h => flags_exec h s t ht, fun h hstf => flagI_exec h hstf s t ht⟩

/-! ## An instruction placed at the pc (`70_reset_and_hazards.md` R237) -/

/-- Four bytes written at an address and after it. -/
def State.placeBytes (s : State) (a : Addr) (v x y z : Byte) : State :=
  (((s.writeMem a v).writeMem (a + 1) x).writeMem (a + 2) y).writeMem (a + 3) z

/-- The four bytes stand at four addresses, so each is read back. -/
theorem readMem_placeBytes {s : State} (hwf : s.mem.wf = true) (a : Addr) (v x y z : Byte) :
    (s.placeBytes a v x y z).readMem a = v ∧ (s.placeBytes a v x y z).readMem (a + 1) = x ∧
      (s.placeBytes a v x y z).readMem (a + 2) = y ∧ (s.placeBytes a v x y z).readMem (a + 3) = z := by
  have hwf1 := wf_writeMem hwf a v
  have hwf2 := wf_writeMem (s := s.writeMem a v) hwf1 (a + 1) x
  have hwf3 := wf_writeMem (s := (s.writeMem a v).writeMem (a + 1) x) hwf2 (a + 2) y
  simp only [State.placeBytes, readMem_writeMem (s := ((s.writeMem a v).writeMem (a + 1) x).writeMem (a + 2) y) hwf3,
    readMem_writeMem (s := (s.writeMem a v).writeMem (a + 1) x) hwf2, readMem_writeMem (s := s.writeMem a v) hwf1,
    readMem_writeMem hwf]
  simp

/-- The state that `withFetchWord` writes the bytes to (log 6). -/
def State.readied (s : State) : State := { s with flags := s.flags ||| 0b1000, ustep := 0, bsel := s.bsel &&& 0b0111 }

theorem withFetchWord_eq (s : State) (nbits w : Nat) :
    s.withFetchWord nbits w = s.readied.placeBytes s.pc (tableByte (w % 2 ^ nbits) 0) (tableByte (w % 2 ^ nbits) 1)
      (tableByte (w % 2 ^ nbits) 2) (tableByte (w % 2 ^ nbits) 3) := rfl

theorem atFetch_withFetchWord (s : State) (nbits w : Nat) : (s.withFetchWord nbits w).atFetch = true := by
  have hi : flagI (s.flags ||| 0b1000) = true := by generalize s.flags = f; revert f; decide
  have hroute : (s.bsel &&& 0b0111).getLsbD 3 = false := by generalize s.bsel = b; revert b; decide
  exact State.atFetch_iff.2 ⟨hi, rfl, hroute⟩

/-- The instruction at the pc is the one that the four bytes of the table word spell. -/
theorem fetchInstr_withFetchWord {s : State} (hwf : s.mem.wf = true) (nbits w : Nat) :
    (s.withFetchWord nbits w).fetchInstr =
      decodeBytes (tableByte (w % 2 ^ nbits) 0) (tableByte (w % 2 ^ nbits) 1) (tableByte (w % 2 ^ nbits) 2)
        (tableByte (w % 2 ^ nbits) 3) := by
  rw [withFetchWord_eq]
  generalize tableByte (w % 2 ^ nbits) 0 = v, tableByte (w % 2 ^ nbits) 1 = x, tableByte (w % 2 ^ nbits) 2 = y,
    tableByte (w % 2 ^ nbits) 3 = z
  obtain ⟨h0, h1, h2, h3⟩ := readMem_placeBytes (s := s.readied) hwf s.pc v x y z
  have hpc : (s.readied.placeBytes s.pc v x y z).pc = s.pc := rfl
  rw [State.fetchInstr, hpc, h0, h1, h2, h3]

theorem decodeBytes_of_decodeTableWord {nbits w : Nat} {i : Instr} (h : decodeTableWord nbits w = some i) :
    decodeBytes (tableByte (w % 2 ^ nbits) 0) (tableByte (w % 2 ^ nbits) 1) (tableByte (w % 2 ^ nbits) 2)
      (tableByte (w % 2 ^ nbits) 3) = i := by
  unfold decodeTableWord at h
  split at h
  next j rest hdecode =>
    obtain rfl := Option.some.inj h
    exact (decode_cons_eq_ok_iff.1 hdecode).1
  next => cases h

/-- Settles O21: the state is at a fetch, of the instruction that the word spells. -/
theorem placedWordRuns : Obligations.PlacedWordRuns := by
  intro s nbits w i hwf h
  refine ⟨rfl, ?_⟩
  rw [step_of_atFetch (atFetch_withFetchWord s nbits w), fetchInstr_withFetchWord hwf,
    decodeBytes_of_decodeTableWord h]

end Sys2Proof.Machine

/-! SUPPORT. Reset and the power-on sequence: the state after reset, the slots of phases R, B and F, and the whole run
of them (`70_reset_and_hazards.md` R230 to R236). -/

namespace Sys2Proof.Machine

/-! ## The state after reset (`70_reset_and_hazards.md` R230) -/

/-- Settles O16: the fields of the reset state, and the empty memory. -/
theorem resetIsZero : Obligations.ResetIsZero :=
  ⟨rfl, rfl, rfl, rfl, rfl, rfl, rfl, State.readMem_reset, rfl, rfl, rfl, rfl, rfl, rfl, rfl, rfl, rfl⟩

/-- Settles O55: at reset every count is 0 and `IR` is 0x00. -/
theorem resetMeetsTheInvariant : Obligations.ResetMeetsTheInvariant :=
  ⟨reset_mem_wf, rfl, rfl, Nat.zero_le _, Nat.zero_le _, fun _ => .inl rfl⟩

/-! ## The rows of the phases (`70_reset_and_hazards.md` R233) -/

section
variable (img : BootImage) (s : State)

theorem runRow_powerOnReset_zero : s.runRow img (powerOnReset 0) = s.onAlu .add := rfl

theorem runRow_powerOnReset_one : (s.onAlu .add).runRow img (powerOnReset 1) = (s.setPc 0x04 s.al).onAlu .passl := by
  rw [show powerOnReset 1 = row .const [.ah] (toAlu .passl) from rfl, runRow_toAlu, busValue_const_onAlu]
  rfl

theorem runRow_powerOnReset_two :
    (s.onAlu .passl).runRow img (powerOnReset 2) = (s.setPc s.ah 0x00).onAlu .unary := by
  rw [show powerOnReset 2 = row .const [.al] (toAlu .unary) from rfl, runRow_toAlu, busValue_const_onAlu]
  rfl

theorem runRow_powerOnReset_three_unary :
    (s.onAlu .unary).runRow img (powerOnReset 3) = (s.setFlags (busFlags (aluUnary s.ah s.al))).onAlu .boot := by
  rw [show powerOnReset 3 = row .alu [.flags] (toAlu .boot) from rfl, runRow_toAlu, busValue_alu_onAlu]
  rfl

theorem runRow_powerOnBootstrap_zero :
    (s.onAlu .boot).runRow img (powerOnBootstrap 0) =
      (s.writeMem s.pc (aluBoot img s.ah s.al)).incPc.onAlu .passr := by
  rw [show powerOnBootstrap 0 = rowInc .alu [.mem] (toAlu .passr) from rfl,
    runRow_rowInc _ _ _ _ (by decide) (by decide), runRow_toAlu, busValue_alu_onAlu, load_mem_onAlu]
  rfl

theorem runRow_powerOnBootstrap_one :
    (s.onAlu .passr).runRow img (powerOnBootstrap 1) = (s.setFlags (busFlags s.ah)).onAlu .boot := by
  rw [show powerOnBootstrap 1 = row .alu [.flags] (toAlu .boot) from rfl, runRow_toAlu, busValue_alu_onAlu]
  rfl

theorem runRow_powerOnFinish_two : s.runRow img (powerOnFinish 2) = s.onAlu .add := rfl

theorem runRow_powerOnFinish_three_add :
    (s.onAlu .add).runRow img (powerOnFinish 3) = (s.setPc 0x04 s.al).onAlu .passl := by
  rw [show powerOnFinish 3 = row .const [.ah] (toAlu .passl) from rfl, runRow_toAlu, busValue_const_onAlu]
  rfl

end

/-! ## Phase R: the first slot after reset (`70_reset_and_hazards.md` R234) -/

/-- The copy pointer at 0x0400 and the flags of phase B. -/
def State.pointerSet : State := ((State.reset.setPc 0x04 0x00).setFlags 0x4).onAlu .boot

theorem cyclesTo_pointerSet (img : BootImage) : CyclesTo img 4 State.reset (State.pointerSet.atStep 4) := by
  have hadd := cycle_atStep img (s := State.reset) (ucodeRow_reset 0 0 rfl rfl) rfl (by decide)
  have hah := cycle_atStep img (s := State.reset.onAlu .add) (ucodeRow_reset 1 0 rfl rfl) rfl (by decide)
  have hal := cycle_atStep img (s := (State.reset.setPc 0x04 0x00).onAlu .passl) (ucodeRow_reset 2 0 rfl rfl) rfl
    (by decide)
  have hflags := cycle_atStep img (s := (State.reset.setPc 0x04 0x00).onAlu .unary) (ucodeRow_reset 3 0 rfl rfl) rfl
    (by decide)
  rw [runRow_powerOnReset_zero] at hadd
  rw [runRow_powerOnReset_one] at hah
  rw [runRow_powerOnReset_two] at hal
  rw [runRow_powerOnReset_three_unary] at hflags
  exact .head hadd (.head hah (.head hal (.head hflags (.refl _))))

theorem slotEnd_reset (img : BootImage) : slotEnd img State.reset = .complete State.pointerSet 5 := by
  rw [slotEnd, (cyclesTo_pointerSet img).slotLoop 12 0]
  exact slotLoop_atStep_rst img (s := State.pointerSet) (ucodeRow_bootstrap 4 0 rfl rfl rfl) 11 4

/-- Settles O17: four rows of phase R, then the row of phase B at microstep 4. -/
theorem firstSlotAfterReset : Obligations.FirstSlotAfterReset := by
  have hrow : ucodeRow 0x4 4 0x00 = rstOp := ucodeRow_bootstrap 4 0x00 rfl rfl rfl
  have hpc : State.pointerSet.pc = 0x0400 := by decide
  exact fun img => ⟨⟨_, (cyclesTo_pointerSet img).runCyclesWithHost 0 0, hpc, rfl, rfl, (word_eq_rst_iff _).2 hrow⟩,
    slotEnd_reset img⟩

/-! ## Phases B and F: one slot of the copy loop (`70_reset_and_hazards.md` R235, R236) -/

/-- The flags select phase B. -/
def SelectsBootstrap (f : Nibble) : Prop := flagI f = false ∧ flagZ f = true ∧ flagS f = false

theorem ucodeRow_of_selectsBootstrap {f : Nibble} (k : Nibble) (ir : Byte) (h : SelectsBootstrap f) :
    ucodeRow f k ir = powerOnBootstrap k := by
  obtain ⟨hi, hz, hs⟩ := h
  exact ucodeRow_bootstrap k ir hi hz hs

/-- The state stands at the start of a slot of the copy loop (`70_reset_and_hazards.md` R233). -/
structure State.AtCopy (s : State) : Prop where
  ustep : s.ustep = 0
  bsel : s.bsel = 7
  flags : SelectsBootstrap s.flags

/-- The byte of the BOOT region copied, the address advanced, and the flags taken from the new page. -/
def State.copied (img : BootImage) (s : State) : State :=
  (((s.writeMem s.pc (aluBoot img s.ah s.al)).setPc (hiByte (s.pc + 1)) (loByte (s.pc + 1))).setFlags
    (busFlags (hiByte (s.pc + 1)))).onAlu .boot

/-- The address register after the increment, by the bytes of the next address (`41_cycle.md` R116). -/
theorem incPc_eq_setPc (s : State) : s.incPc = s.setPc (hiByte (s.pc + 1)) (loByte (s.pc + 1)) :=
  incPc_setPc s s.ah s.al

theorem onAlu_boot_of_bsel {s : State} (h : s.bsel = 7) : s.onAlu .boot = s := by
  change { s with bsel := 7 } = s
  rw [← h]

/-- The state in which phase F hands over to the normal regime. -/
def State.handedOver (u : State) : State := ((u.setPc 0x04 0x00).setFlags 0x8).onAlu .passl

/-- The four rows of phase F make the address 0x0400 from the select codes and the flags from its bytes. -/
theorem cyclesTo_handedOver (img : BootImage) {u : State} (h : SelectsFinish u.flags) :
    CyclesTo img 4 (u.atStep 2) (u.handedOver.atRow 5) := by
  have hadd := cycle_atStep img (s := u) (ucodeRow_finish 2 u.ir h) rfl (by decide)
  have hah := cycle_atStep img (s := u.onAlu .add) (ucodeRow_finish 3 u.ir h) rfl (by decide)
  have hal := cycle_atStep img (s := (u.setPc 0x04 u.al).onAlu .passl) (ucodeRow_finish 4 u.ir h) rfl (by decide)
  have hflags := cycle_atStep img (s := (u.setPc 0x04 0x00).onAlu .addf) (ucodeRow_finish 5 u.ir h) rfl (by decide)
  have hsum : addFlags 0x04 0x00 = 0x8 := by decide
  rw [runRow_powerOnFinish_two] at hadd
  rw [runRow_powerOnFinish_three_add] at hah
  rw [runRow_powerOnFinish_four] at hal
  rw [runRow_powerOnFinish_five, State.setPc_ah, State.setPc_al, hsum] at hflags
  exact .head hadd (.head hah (.head hal (.head hflags (.refl _))))

section
variable (img : BootImage) {s : State} (h : s.AtCopy)
include h

/-- Every slot of the copy loop starts with the two rows of phase B. -/
theorem cyclesTo_copied : CyclesTo img 2 s ((s.copied img).atStep 2) := by
  have hcopy := cycle_atStep img (s := s.onAlu .boot) (ucodeRow_of_selectsBootstrap 0 s.ir h.flags) rfl (by decide)
  have hpage := cycle_atStep img
    (s := ((s.writeMem s.pc (aluBoot img s.ah s.al)).setPc (hiByte (s.pc + 1)) (loByte (s.pc + 1))).onAlu .passr)
    (ucodeRow_of_selectsBootstrap 1 s.ir h.flags) rfl (by decide)
  rw [runRow_powerOnBootstrap_zero, onAlu_boot_of_bsel h.bsel, atStep_of_ustep h.ustep, incPc_eq_setPc] at hcopy
  rw [runRow_powerOnBootstrap_one] at hpage
  exact .head hcopy (.head hpage (.refl _))

/-- While the new page selects phase B its row at microstep 2 ends the slot. -/
theorem slotEnd_copied (hpage : SelectsBootstrap (busFlags (hiByte (s.pc + 1)))) :
    slotEnd img s = .complete (s.copied img).endPlain 3 := by
  rw [slotEnd, (cyclesTo_copied img h).slotLoop 14 0]
  exact slotLoop_atStep_rst img (s := s.copied img) (ucodeRow_of_selectsBootstrap 2 s.ir hpage) 13 2

/-- When the new page selects phase F its rows set the address 0x0400 and hand over to the normal regime, in which the
slot idles to its end as that of a `NOP`. -/
theorem slotEnd_finished (hpage : SelectsFinish (busFlags (hiByte (s.pc + 1)))) (hir : s.ir = 0x00) :
    slotEnd img s = .complete (((s.copied img).setPc 0x04 0x00).setFlags 0x8).endSlot 16 := by
  have hcycles := (cyclesTo_copied img h).trans (cyclesTo_handedOver img (u := s.copied img) hpage)
  have hrows : (s.copied img).handedOver.rows = [] := congrArg (fun ir => microprogram (decodeOpcode ir) 0x8) hir
  have hi : flagI 0x8 = true := by decide
  rw [slotEnd, hcycles.slotLoop 10 0]
  exact slotLoop_idle img (s := (s.copied img).handedOver) hi 9 6 5 (hrows ▸ Nat.zero_le _) rfl

/-- What the two rows leave, at the end of the slot, by the fields of the state. -/
theorem endPlain_copied :
    (s.copied img).endPlain =
      { s with mem := s.mem.write s.pc (alu img 7 s.ah s.al), ah := hiByte (s.pc + 1), al := loByte (s.pc + 1),
               flags := busFlags (hiByte (s.pc + 1)) } := by
  simp only [h.ustep, h.bsel]
  rfl

/-- What the rows of phase F leave, at the end of the slot, by the fields of the state. -/
theorem endSlot_finished :
    (((s.copied img).setPc 0x04 0x00).setFlags 0x8).endSlot =
      { s with mem := s.mem.write s.pc (alu img 7 s.ah s.al), ah := 0x04, al := 0x00, flags := 0x8, bsel := 0 } := by
  simp only [h.ustep]
  rfl

end

/-- Settles O59: the two rows of phase B, then the phase that the new page selects. -/
theorem copyLoopSlot : Obligations.CopyLoopSlot := by
  intro img s hu hb hi hz hs next page copied
  have h : s.AtCopy := ⟨hu, hb, hi, hz, hs⟩
  refine ⟨fun hpi hpz hps => ?_, fun hpi hpz hps hir => ?_⟩
  · rw [slotEnd_copied img h ⟨hpi, hpz, hps⟩, endPlain_copied img h]
    rfl
  · rw [slotEnd_finished img h ⟨hpi, hpz, hps⟩ hir, endSlot_finished img h]

/-! ## The whole power-on sequence (`70_reset_and_hazards.md` R235, R236) -/

/-- The address of the boot window at an offset. -/
def bootAddr (n : Nat) : Addr := BitVec.ofNat 16 (0x0400 + n)

/-- Memory with the first `n` bytes of the boot window copied. -/
def bootMemory (img : BootImage) : Nat → Memory
  | 0 => ⟨[]⟩
  | n + 1 => (bootMemory img n).write (bootAddr n) (bootWindowByte img n)

/-- The start of the slot that copies the byte at offset `n`. -/
def State.bootAt (img : BootImage) (n : Nat) : State :=
  { State.reset with
    flags := busFlags (hiByte (bootAddr n)), bsel := 7, ah := hiByte (bootAddr n), al := loByte (bootAddr n),
    mem := bootMemory img n }

theorem toNat_bootAddr {n : Nat} (hn : n ≤ 512) : (bootAddr n).toNat = 0x0400 + n := Nat.mod_eq_of_lt (by omega)

theorem bootAddr_succ (n : Nat) : bootAddr n + 1 = bootAddr (n + 1) := (BitVec.ofNat_add ..).symm

theorem pc_bootAt (img : BootImage) (n : Nat) : (State.bootAt img n).pc = bootAddr n := joinBytes_hiByte_loByte _

theorem pc_bootAt_add_one (img : BootImage) (n : Nat) : (State.bootAt img n).pc + 1 = bootAddr (n + 1) := by
  rw [pc_bootAt, bootAddr_succ]

/-- The window lies in the pages 0x04 and 0x05. -/
theorem hiByte_bootAddr {n : Nat} (hn : n < 512) : hiByte (bootAddr n) = 0x04 ∨ hiByte (bootAddr n) = 0x05 := by
  have hpage := toNat_hiByte (bootAddr n)
  rw [toNat_bootAddr (Nat.le_of_lt hn)] at hpage
  obtain hlow | hhigh := Nat.lt_or_ge n 256
  · exact .inl (BitVec.eq_of_toNat_eq (hpage.trans (by change _ = 4; omega)))
  · exact .inr (BitVec.eq_of_toNat_eq (hpage.trans (by change _ = 5; omega)))

/-- Both pages select phase B. -/
theorem selectsBootstrap_bootAddr {n : Nat} (hn : n < 512) :
    SelectsBootstrap (busFlags (hiByte (bootAddr n))) := by
  unfold SelectsBootstrap
  obtain h | h := hiByte_bootAddr hn <;> rw [h] <;> decide

/-- The page after the window selects phase F. -/
theorem selectsFinish_bootAddr : SelectsFinish (busFlags (hiByte (bootAddr 512))) := by
  unfold SelectsFinish
  decide

theorem atCopy_bootAt (img : BootImage) {n : Nat} (hn : n < 512) : (State.bootAt img n).AtCopy :=
  ⟨rfl, rfl, selectsBootstrap_bootAddr hn⟩

/-- What the BOOT region holds for an address of the window (`40_alu_operations.md` R99). -/
theorem alu_boot_bootAt (img : BootImage) {n : Nat} (hn : n < 512) :
    alu img 7 (State.bootAt img n).ah (State.bootAt img n).al = bootWindowByte img n := by
  change alu img 7 (hiByte (bootAddr n)) (loByte (bootAddr n)) = _
  have haddr : (hiByte (bootAddr n)).toNat * 256 + (loByte (bootAddr n)).toNat = 0x0400 + n := by
    rw [← toNat_joinBytes, joinBytes_hiByte_loByte, toNat_bootAddr (Nat.le_of_lt hn)]
  rw [alu_boot, bootWindowByte]
  split
  next hlen => rw [aluBoot_of_mem_window img hlen haddr, List.getD_eq_getElem]
  next hlen =>
    rw [aluBoot_of_not_mem_window img (.inr (by omega))]
    refine BitVec.eq_of_toNat_eq ?_
    rw [toNat_loByte, toNat_bootAddr (Nat.le_of_lt hn), BitVec.toNat_ofNat]
    omega

/-! ### The slots -/

theorem slotEnd_bootAt (img : BootImage) {n : Nat} (hn : n < 511) :
    slotEnd img (State.bootAt img n) = .complete (State.bootAt img (n + 1)) 3 := by
  have hcopy := atCopy_bootAt img (Nat.lt_succ_of_lt hn)
  have hpage := selectsBootstrap_bootAddr (Nat.succ_lt_succ hn)
  have hnext := pc_bootAt_add_one img n
  rw [slotEnd_copied img hcopy (hnext ▸ hpage), endPlain_copied img hcopy, hnext, pc_bootAt,
    alu_boot_bootAt img (Nat.lt_succ_of_lt hn)]
  rfl

/-- The boot exit state (`70_reset_and_hazards.md` R236). -/
def State.booted (img : BootImage) : State :=
  { State.reset with flags := 0x8, ah := 0x04, al := 0x00, mem := bootMemory img 512 }

theorem slotEnd_bootAt_last (img : BootImage) :
    slotEnd img (State.bootAt img 511) = .complete (State.booted img) 16 := by
  have hcopy := atCopy_bootAt img (show 511 < 512 by decide)
  have hnext := pc_bootAt_add_one img 511
  rw [slotEnd_finished img hcopy (hnext ▸ selectsFinish_bootAddr) rfl, endSlot_finished img hcopy, pc_bootAt,
    alu_boot_bootAt img (show 511 < 512 by decide)]
  rfl

theorem runSlotsCounted_complete {img : BootImage} {s t : State} {cycles : Nat} (n done : Nat)
    (h : slotEnd img s = .complete t cycles) :
    runSlotsCounted img (n + 1) done s = runSlotsCounted img n (done + cycles) t := by
  rw [runSlotsCounted, h]

/-- The slots from the copy of the byte at an offset on, by induction on those before the last. -/
theorem runSlotsCounted_bootAt (img : BootImage) (k : Nat) :
    ∀ n done : Nat, n + k = 511 →
      runSlotsCounted img (k + 1) done (State.bootAt img n) = some (State.booted img, done + 3 * k + 16) := by
  induction k with
  | zero =>
    intro n done hn
    obtain rfl : n = 511 := hn
    exact runSlotsCounted_complete 0 done (slotEnd_bootAt_last img)
  | succ k ih =>
    intro n done hn
    rw [runSlotsCounted_complete (k + 1) done (slotEnd_bootAt img (by omega)), ih (n + 1) (done + 3) (by omega),
      show done + 3 + 3 * k = done + 3 * (k + 1) by omega]

/-! ### The copied window -/

theorem wf_bootMemory (img : BootImage) (n : Nat) : (bootMemory img n).wf = true := by
  induction n with
  | zero => exact reset_mem_wf
  | succ n ih => exact Memory.wf_write _ _ ih

/-- Each byte of the window is copied once, and no byte elsewhere is written. -/
theorem read_bootMemory (img : BootImage) (a : Addr) {n : Nat} (hn : n ≤ 512) :
    (bootMemory img n).read a =
      if 0x0400 ≤ a.toNat ∧ a.toNat < 0x0400 + n then bootWindowByte img (a.toNat - 0x0400) else 0x00 := by
  induction n with
  | zero => exact (if_neg (by omega)).symm
  | succ n ih =>
    have haddr := toNat_bootAddr (Nat.le_of_succ_le hn)
    rw [bootMemory, Memory.read_write _ _ _ (wf_bootMemory img n), ih (Nat.le_of_succ_le hn)]
    by_cases ha : a = bootAddr n
    · rw [if_pos ha, ha, haddr, if_pos (by omega), Nat.add_sub_cancel_left]
    · have hne : a.toNat ≠ 0x0400 + n := fun e => ha (BitVec.eq_of_toNat_eq (e.trans haddr.symm))
      rw [if_neg ha]
      exact if_congr (by omega) rfl rfl

/-- Settles O18: the slot of phase R, 511 slots of the copy loop that go on, and the one that finishes the boot. -/
theorem bootReachesItsExitState : Obligations.BootReachesItsExitState := by
  intro img
  refine ⟨State.booted img, ?_, rfl, fun k hk => ?_, fun a ha => ?_⟩
  · have hstart : State.pointerSet = State.bootAt img 0 := rfl
    rw [runSlotsCounted_complete 512 0 (slotEnd_reset img), hstart, runSlotsCounted_bootAt img 511 0 (0 + 5) rfl]
  · refine (read_bootMemory img (bootAddr k) (le_refl 512)).trans ?_
    rw [toNat_bootAddr (Nat.le_of_lt hk), if_pos (by omega), Nat.add_sub_cancel_left]
  · exact (read_bootMemory img a (le_refl 512)).trans (if_neg (by omega))

end Sys2Proof.Machine
